-- ==== Sys2Proof/Word.lean ====
section
/-! DEFINITION. The word types of the NTE: the 32-bit command and window word, the 32-bit limb, the byte of a bus lane. -/

namespace Sys2Proof

/-- A command word, or a word of the register window (R28, R90). Bit 0 is the least significant (R11). -/
abbrev Word := BitVec 32

/-- One 32-bit slice of an integer register (glossary of 00_scope.md). -/
abbrev Limb := BitVec 32

/-- One byte lane of the bus (R65). -/
abbrev Byte := BitVec 8

end Sys2Proof
end

