-- ==== Sys2Proof/Syntax.lean ====
section
/-! DEFINITION. The syntax of the 26 commands of R95: one constructor per row of spec/opcode_table.json, operands in the
order of R95's column "fields". -/

namespace Sys2Proof

/-- The number of an integer register, `x0` .. `x15` (R20, R93). -/
abbrev XIdx := Fin 16

/-- The number of a point register, `pt0` .. `pt7` (R24, R93). -/
abbrev PIdx := Fin 8

/-- The commands (R95). -/
inductive Instr where
  | nop
  | clear
  | mov (rd rs : XIdx)
  | gcd (rd ra rb : XIdx)
  | xgcd (rg rx ry ra rb : XIdx)
  | modinv (rd ra rn : XIdx)
  | modpow (rd rb re rm : XIdx)
  | modpowct (rd rb re rm : XIdx)
  | totient (rd rp rq : XIdx)
  | mrtest (rd rn : XIdx) (imm8 : BitVec 8)
  | modadd (rd ra rb rm : XIdx)
  | modsub (rd ra rb rm : XIdx)
  | modmul (rd ra rb rm : XIdx)
  | modsqrt (rd ra rp : XIdx)
  | curve (ra rb rp : XIdx)
  | oncurve (rd rx ry : XIdx)
  | pload (pd : PIdx) (rx ry : XIdx)
  | pinf (pd : PIdx)
  | pstore (rdx rdy : XIdx) (ps : PIdx)
  | pmov (pd ps : PIdx)
  | pneg (pd ps : PIdx)
  | padd (pd ps1 ps2 : PIdx)
  | pdbl (pd ps : PIdx)
  | smul (pd : PIdx) (rk : XIdx) (ps : PIdx)
  | smulct (pd : PIdx) (rk : XIdx) (ps : PIdx)
  | porder (rd : XIdx) (ps : PIdx) (rmax : XIdx)
  deriving DecidableEq, Repr

/-- The pseudo-instruction `finv rd, ra, rp` (R100, R160). -/
def Instr.finv (rd ra rp : XIdx) : Instr := .modinv rd ra rp

/-- The pseudo-instruction `isprime rd, rn` (R100). -/
def Instr.isprime (rd rn : XIdx) : Instr := .mrtest rd rn 0

/-- The pseudo-instruction `modsqr rd, ra, rm` (R100). -/
def Instr.modsqr (rd ra rm : XIdx) : Instr := .modmul rd ra ra rm

end Sys2Proof
end

