-- ==== Sys2Proof/WellFormed.lean ====
section
/-! DEFINITION. Well-formed commands. The field types of `Instr` already keep register numbers in range, so what is left
to check is R97: no two destinations are one register. -/

namespace Sys2Proof

/-- R97: XGCD's three destinations are distinct and so are PSTORE's two; no other command has two destinations. -/
def Instr.wellFormed : Instr → Bool
  | .nop => true
  | .clear => true
  | .mov _ _ => true
  | .gcd _ _ _ => true
  | .xgcd rg rx ry _ _ => rg != rx && rg != ry && rx != ry
  | .modinv _ _ _ => true
  | .modpow _ _ _ _ => true
  | .modpowct _ _ _ _ => true
  | .totient _ _ _ => true
  | .mrtest _ _ _ => true
  | .modadd _ _ _ _ => true
  | .modsub _ _ _ _ => true
  | .modmul _ _ _ _ => true
  | .modsqrt _ _ _ => true
  | .curve _ _ _ => true
  | .oncurve _ _ _ => true
  | .pload _ _ _ => true
  | .pinf _ => true
  | .pstore rdx rdy _ => rdx != rdy
  | .pmov _ _ => true
  | .pneg _ _ => true
  | .padd _ _ _ => true
  | .pdbl _ _ => true
  | .smul _ _ _ => true
  | .smulct _ _ _ => true
  | .porder _ _ _ => true

end Sys2Proof
end

