-- ==== Sys2Proof/Decode.lean ====
section
/-! DEFINITION. The decoder of command words (R90 to R98) and the encoder (R101), both from the table of R95. Duplicate
destinations (R97) are not the decoder's: a word that matches a row has its command, and the command's encoding check
(R284) refuses it (log entry 10). -/

namespace Sys2Proof

/-- The 26 values of `op` (R95), by mnemonic. -/
inductive Opcode where
  | nop | clear | mov | gcd | xgcd | modinv | modpow | modpowct | totient | mrtest | modadd | modsub | modmul | modsqrt
  | curve | oncurve | pload | pinf | pstore | pmov | pneg | padd | pdbl | smul | smulct | porder
  deriving DecidableEq, Repr

/-- Column "op" of R95. -/
def Opcode.byte : Opcode → Nat
  | .nop => 0x00
  | .clear => 0x01
  | .mov => 0x02
  | .gcd => 0x10
  | .xgcd => 0x11
  | .modinv => 0x12
  | .modpow => 0x13
  | .modpowct => 0x14
  | .totient => 0x15
  | .mrtest => 0x20
  | .modadd => 0x30
  | .modsub => 0x31
  | .modmul => 0x32
  | .modsqrt => 0x33
  | .curve => 0x40
  | .oncurve => 0x41
  | .pload => 0x42
  | .pinf => 0x43
  | .pstore => 0x44
  | .pmov => 0x45
  | .pneg => 0x46
  | .padd => 0x47
  | .pdbl => 0x48
  | .smul => 0x49
  | .smulct => 0x4A
  | .porder => 0x4B

/-- The rows of R95 in the table's order. -/
def Opcode.all : List Opcode :=
  [.nop, .clear, .mov, .gcd, .xgcd, .modinv, .modpow, .modpowct, .totient, .mrtest, .modadd, .modsub, .modmul,
    .modsqrt, .curve, .oncurve, .pload, .pinf, .pstore, .pmov, .pneg, .padd, .pdbl, .smul, .smulct, .porder]

/-- The command that an `op` value selects, none for the 229 unused values (R96, R98). -/
def Opcode.ofByte (n : Nat) : Option Opcode := Opcode.all.find? fun o => o.byte == n

/-- Column "mask" of R95: the bits the decoder compares. -/
def Opcode.mask : Opcode → Word
  | .nop => 0xFFFFFFFF
  | .clear => 0xFFFFFFFF
  | .mov => 0xFF00FFFF
  | .gcd => 0xFF000FFF
  | .xgcd => 0xFF00000F
  | .modinv => 0xFF000FFF
  | .modpow => 0xFF0000FF
  | .modpowct => 0xFF0000FF
  | .totient => 0xFF000FFF
  | .mrtest => 0xFF00FF00
  | .modadd => 0xFF0000FF
  | .modsub => 0xFF0000FF
  | .modmul => 0xFF0000FF
  | .modsqrt => 0xFF000FFF
  | .curve => 0xFF000FFF
  | .oncurve => 0xFF000FFF
  | .pload => 0xFF800FFF
  | .pinf => 0xFF8FFFFF
  | .pstore => 0xFF008FFF
  | .pmov => 0xFF88FFFF
  | .pneg => 0xFF88FFFF
  | .padd => 0xFF888FFF
  | .pdbl => 0xFF88FFFF
  | .smul => 0xFF808FFF
  | .smulct => 0xFF808FFF
  | .porder => 0xFF080FFF

/-- Column "match" of R95: `op` at the top and zeros below it. -/
def Opcode.pattern (o : Opcode) : Word := BitVec.ofNat 32 (o.byte * 2 ^ 24)

/-- R95: the word has the row's pattern under the row's mask. -/
def Opcode.accepts (o : Opcode) (w : Word) : Bool := (w &&& o.mask) == o.pattern

/-- The fields of a command word (R91, R92, R101). -/
structure Fields where
  op : Nat
  f1 : Nat
  f2 : Nat
  f3 : Nat
  f4 : Nat
  f5 : Nat
  z : Nat
  imm8 : Nat
  deriving DecidableEq, Repr

/-- R101: the fields as slices of the word. -/
def fieldsOf (w : Word) : Fields :=
  { op := w.toNat / 2 ^ 24
    f1 := w.toNat / 2 ^ 20 % 16
    f2 := w.toNat / 2 ^ 16 % 16
    f3 := w.toNat / 2 ^ 12 % 16
    f4 := w.toNat / 2 ^ 8 % 16
    f5 := w.toNat / 2 ^ 4 % 16
    z := w.toNat % 16
    imm8 := w.toNat % 256 }

/-- Why a word is no command: the clauses (a) to (d) of R96. -/
inductive DecodeError where
  /-- (a) `op` is not one of the 26 values. -/
  | unknownOpcode (op : Nat)
  /-- (b), (c) a field the command does not use, or `z`, is not 0. -/
  | nonzeroUnused
  /-- (d) a point-register field has a value from 8 to 15. -/
  | pointIndex (v : Nat)
  deriving DecidableEq, Repr

/-- An integer-register field names `x[v]` for each of its 16 values (R93). -/
def xField (v : Nat) : XIdx := Fin.ofNat 16 v

/-- A point-register field names `pt[v]` for values 0 to 7 only (R93). -/
def pField (v : Nat) : Except DecodeError PIdx :=
  if h : v < 8 then .ok ⟨v, h⟩ else .error (.pointIndex v)

/-- R91, R92: the fields a command does not use must be 0. -/
def unusedZero (l : List Nat) (r : Except DecodeError Instr) : Except DecodeError Instr :=
  if l.all (· == 0) then r else .error .nonzeroUnused

/-- The operands of a command, row by row of R95's column "fields". -/
def decodeOperands (o : Opcode) (f : Fields) : Except DecodeError Instr :=
  match o with
  | .nop => unusedZero [f.f1, f.f2, f.f3, f.f4, f.f5, f.z] (.ok .nop)
  | .clear => unusedZero [f.f1, f.f2, f.f3, f.f4, f.f5, f.z] (.ok .clear)
  | .mov => unusedZero [f.f3, f.f4, f.f5, f.z] (.ok (.mov (xField f.f1) (xField f.f2)))
  | .gcd => unusedZero [f.f4, f.f5, f.z] (.ok (.gcd (xField f.f1) (xField f.f2) (xField f.f3)))
  | .xgcd => unusedZero [f.z]
      (.ok (.xgcd (xField f.f1) (xField f.f2) (xField f.f3) (xField f.f4) (xField f.f5)))
  | .modinv => unusedZero [f.f4, f.f5, f.z] (.ok (.modinv (xField f.f1) (xField f.f2) (xField f.f3)))
  | .modpow => unusedZero [f.f5, f.z]
      (.ok (.modpow (xField f.f1) (xField f.f2) (xField f.f3) (xField f.f4)))
  | .modpowct => unusedZero [f.f5, f.z]
      (.ok (.modpowct (xField f.f1) (xField f.f2) (xField f.f3) (xField f.f4)))
  | .totient => unusedZero [f.f4, f.f5, f.z] (.ok (.totient (xField f.f1) (xField f.f2) (xField f.f3)))
  | .mrtest => unusedZero [f.f3, f.f4] (.ok (.mrtest (xField f.f1) (xField f.f2) (BitVec.ofNat 8 f.imm8)))
  | .modadd => unusedZero [f.f5, f.z]
      (.ok (.modadd (xField f.f1) (xField f.f2) (xField f.f3) (xField f.f4)))
  | .modsub => unusedZero [f.f5, f.z]
      (.ok (.modsub (xField f.f1) (xField f.f2) (xField f.f3) (xField f.f4)))
  | .modmul => unusedZero [f.f5, f.z]
      (.ok (.modmul (xField f.f1) (xField f.f2) (xField f.f3) (xField f.f4)))
  | .modsqrt => unusedZero [f.f4, f.f5, f.z] (.ok (.modsqrt (xField f.f1) (xField f.f2) (xField f.f3)))
  | .curve => unusedZero [f.f4, f.f5, f.z] (.ok (.curve (xField f.f1) (xField f.f2) (xField f.f3)))
  | .oncurve => unusedZero [f.f4, f.f5, f.z] (.ok (.oncurve (xField f.f1) (xField f.f2) (xField f.f3)))
  | .pload => unusedZero [f.f4, f.f5, f.z]
      ((pField f.f1).map fun pd => .pload pd (xField f.f2) (xField f.f3))
  | .pinf => unusedZero [f.f2, f.f3, f.f4, f.f5, f.z] ((pField f.f1).map fun pd => .pinf pd)
  | .pstore => unusedZero [f.f4, f.f5, f.z]
      ((pField f.f3).map fun ps => .pstore (xField f.f1) (xField f.f2) ps)
  | .pmov => unusedZero [f.f3, f.f4, f.f5, f.z]
      ((pField f.f1).bind fun pd => (pField f.f2).map fun ps => .pmov pd ps)
  | .pneg => unusedZero [f.f3, f.f4, f.f5, f.z]
      ((pField f.f1).bind fun pd => (pField f.f2).map fun ps => .pneg pd ps)
  | .padd => unusedZero [f.f4, f.f5, f.z]
      ((pField f.f1).bind fun pd => (pField f.f2).bind fun ps1 => (pField f.f3).map fun ps2 => .padd pd ps1 ps2)
  | .pdbl => unusedZero [f.f3, f.f4, f.f5, f.z]
      ((pField f.f1).bind fun pd => (pField f.f2).map fun ps => .pdbl pd ps)
  | .smul => unusedZero [f.f4, f.f5, f.z]
      ((pField f.f1).bind fun pd => (pField f.f3).map fun ps => .smul pd (xField f.f2) ps)
  | .smulct => unusedZero [f.f4, f.f5, f.z]
      ((pField f.f1).bind fun pd => (pField f.f3).map fun ps => .smulct pd (xField f.f2) ps)
  | .porder => unusedZero [f.f4, f.f5, f.z]
      ((pField f.f2).map fun ps => .porder (xField f.f1) ps (xField f.f3))

/-- The decoder, total on every word: the command, or the clause of R96 the word falls under. -/
def decode (w : Word) : Except DecodeError Instr :=
  match Opcode.ofByte (fieldsOf w).op with
  | some o => decodeOperands o (fieldsOf w)
  | none => .error (.unknownOpcode (fieldsOf w).op)

/-- The row of R95 a command belongs to. -/
def Instr.opcode : Instr → Opcode
  | .nop => .nop
  | .clear => .clear
  | .mov _ _ => .mov
  | .gcd _ _ _ => .gcd
  | .xgcd _ _ _ _ _ => .xgcd
  | .modinv _ _ _ => .modinv
  | .modpow _ _ _ _ => .modpow
  | .modpowct _ _ _ _ => .modpowct
  | .totient _ _ _ => .totient
  | .mrtest _ _ _ => .mrtest
  | .modadd _ _ _ _ => .modadd
  | .modsub _ _ _ _ => .modsub
  | .modmul _ _ _ _ => .modmul
  | .modsqrt _ _ _ => .modsqrt
  | .curve _ _ _ => .curve
  | .oncurve _ _ _ => .oncurve
  | .pload _ _ _ => .pload
  | .pinf _ => .pinf
  | .pstore _ _ _ => .pstore
  | .pmov _ _ => .pmov
  | .pneg _ _ => .pneg
  | .padd _ _ _ => .padd
  | .pdbl _ _ => .pdbl
  | .smul _ _ _ => .smul
  | .smulct _ _ _ => .smulct
  | .porder _ _ _ => .porder

/-- R101, R-format: `op*2^24 + v1*2^20 + v2*2^16 + v3*2^12 + v4*2^8 + v5*2^4`. -/
def packR (o : Opcode) (v1 v2 v3 v4 v5 : Nat) : Word :=
  BitVec.ofNat 32
    (o.byte * 2 ^ 24 + v1 * 2 ^ 20 + v2 * 2 ^ 16 + v3 * 2 ^ 12 + v4 * 2 ^ 8 + v5 * 2 ^ 4)

/-- R101, I-format: `op*2^24 + rd*2^20 + rn*2^16 + imm8`. -/
def packI (o : Opcode) (v1 v2 imm : Nat) : Word :=
  BitVec.ofNat 32 (o.byte * 2 ^ 24 + v1 * 2 ^ 20 + v2 * 2 ^ 16 + imm)

/-- The encoder (R101): the word of a command, unused fields 0. -/
def encode (i : Instr) : Word :=
  match i with
  | .nop => packR .nop 0 0 0 0 0
  | .clear => packR .clear 0 0 0 0 0
  | .mov rd rs => packR .mov rd rs 0 0 0
  | .gcd rd ra rb => packR .gcd rd ra rb 0 0
  | .xgcd rg rx ry ra rb => packR .xgcd rg rx ry ra rb
  | .modinv rd ra rn => packR .modinv rd ra rn 0 0
  | .modpow rd rb re rm => packR .modpow rd rb re rm 0
  | .modpowct rd rb re rm => packR .modpowct rd rb re rm 0
  | .totient rd rp rq => packR .totient rd rp rq 0 0
  | .mrtest rd rn imm8 => packI .mrtest rd rn imm8.toNat
  | .modadd rd ra rb rm => packR .modadd rd ra rb rm 0
  | .modsub rd ra rb rm => packR .modsub rd ra rb rm 0
  | .modmul rd ra rb rm => packR .modmul rd ra rb rm 0
  | .modsqrt rd ra rp => packR .modsqrt rd ra rp 0 0
  | .curve ra rb rp => packR .curve ra rb rp 0 0
  | .oncurve rd rx ry => packR .oncurve rd rx ry 0 0
  | .pload pd rx ry => packR .pload pd rx ry 0 0
  | .pinf pd => packR .pinf pd 0 0 0 0
  | .pstore rdx rdy ps => packR .pstore rdx rdy ps 0 0
  | .pmov pd ps => packR .pmov pd ps 0 0 0
  | .pneg pd ps => packR .pneg pd ps 0 0 0
  | .padd pd ps1 ps2 => packR .padd pd ps1 ps2 0 0
  | .pdbl pd ps => packR .pdbl pd ps 0 0 0
  | .smul pd rk ps => packR .smul pd rk ps 0 0
  | .smulct pd rk ps => packR .smulct pd rk ps 0 0
  | .porder rd ps rmax => packR .porder rd ps rmax 0 0

/-- The decoder on a word numbered as spec/opcode_table.json numbers it; bits from `nbits` up are 0. -/
def decodeTableWord (nbits w : Nat) : Option Instr :=
  match decode (BitVec.ofNat 32 (w % 2 ^ nbits)) with
  | .ok i => some i
  | .error _ => none

end Sys2Proof
end

