-- ==== Sys2Proof/Config.lean ====
section
/-! DEFINITION. What one NTE fixes (the OPEN parameters of R10 and the fixed ones), the events of the operation
trace, and the free value of the random source. -/

namespace Sys2Proof

/-- The OPEN parameters of R10. They are arguments of the model: a state carries them and no step changes them. -/
structure Config where
  /-- `L`, the 32-bit limbs per integer register; the width is `W = 32*L`. -/
  limbs : Nat
  /-- `BASE`, the bus address of the register window. -/
  base : Nat
  deriving DecidableEq, Repr

/-- The constraints R10 puts on the OPEN parameters. -/
abbrev Config.legal (c : Config) : Prop :=
  1 ≤ c.limbs ∧ c.limbs ≤ 65535 ∧ c.base % 4096 = 0

/-- `W = 32*L`, the width of an integer register in bits (R10). -/
def Config.width (c : Config) : Nat := 32 * c.limbs

/-- The parameters `State.reset` is written with (DESIGN CHOICE, log entry 2): the spec leaves both OPEN;
`L = 1` is the width of the vectors of 95_test_vectors.md. -/
def Config.default : Config := { limbs := 1, base := 0 }

/-- `MR_DEFAULT_ROUNDS` (R10, R94). -/
def mrDefaultRounds : Nat := 41

/-- `WINDOW`, the size of the register window in bytes (R10). -/
def windowBytes : Nat := 4096

/-- The unit operations that an operation trace is made of (R48). -/
inductive Event where
  | mul | sqr | inv | padd | pdbl | draw
  deriving DecidableEq, Repr

/-- FREE VALUE: the answer of the random source that no entry of `Env.draws` supplies (R152, R153; log entry 3). -/
opaque Config.freeWitness : Nat → Int

end Sys2Proof
end

