-- ==== Sys2Proof/Machine/State.lean ====
section
/-! DEFINITION. The state of the NTE (10_state.md), of the outside world as far as a step reads it, the reset values of
R50, the free value of a trace, and the reasons a step can stop. -/

namespace Sys2Proof.Machine

/-- An integer register's `W` stored bits as limbs, limb 0 first (R20, R65). `State.Inv` says there are `L` of them. -/
abbrev Reg := List Limb

/-- A value of a point register (R24): the point at infinity, or an affine pair. -/
inductive Point where
  | inf
  | aff (x y : Int)
  deriving DecidableEq, Repr

/-- The three integer fields of the curve context (R25). -/
structure Curve where
  a : Int
  b : Int
  p : Int
  deriving DecidableEq, Repr

/-- The completion codes (R281), the four `host` codes among them (R302, R263). -/
inductive Code where
  | ok
  | messageTooLarge
  | invalidCiphertext
  | noModularInverse
  | compositeRejected
  | invalidCurvePoint
  | singularCurve
  | divisionByZero
  | invalidSignature
  | eIllegal
  | eRange
  | eOverflow
  | eUnsupported
  | eNoCurve
  | eFatal
  | sNoRoot
  | sUnknown
  deriving DecidableEq, Repr

end Sys2Proof.Machine

namespace Sys2Proof
open Machine

/-- FREE VALUE: the operation trace of a command whose trace the spec leaves unspecified (R48, U20; log entry 4). It depends on
the command and on the contents of the integer registers, the point registers and `crv`, so that the same command on the
same contents has the same trace (R326), and on nothing else; in particular not on `CV` (R285). -/
opaque Config.freeTrace : Instr → Vector Reg 16 → Vector Point 8 → Curve → List Event

end Sys2Proof

namespace Sys2Proof.Machine

/-- The transitions of the one total order of R69, seen from the NTE: what the outside world does next. -/
inductive Input where
  /-- A bus read of `bytes` bytes at bus address `addr`. -/
  | read (addr bytes : Nat)
  /-- A bus write of the lanes' bytes at bus address `addr`, lane 0 first. -/
  | write (addr : Nat) (lanes : List Byte)
  /-- The engine takes its step now, if it is enabled (R45). -/
  | engine
  /-- The platform asserts (`true`) or releases (`false`) the reset input (R320). -/
  | resetLine (asserted : Bool)
  deriving DecidableEq, Repr

/-- What the NTE answers on the bus. -/
inductive Response where
  /-- No answer: no access yet, or one made while the reset input is asserted (R320). -/
  | none
  /-- An accepted write. -/
  | ack
  /-- An accepted read, its four byte lanes, lane 0 first (R65). -/
  | data (lanes : List Byte)
  /-- The bus error of R64. -/
  | busError
  deriving DecidableEq, Repr

/-- The outside world. None of it is NTE state (R49, R60): the model holds it so that a step is a function of plain data
(log entries 1, 3, 4, 6). -/
structure Env where
  /-- The transitions to come, first one first. -/
  inputs : List Input
  /-- The answers of the random source to come, first one first (R153). -/
  draws : List Int
  /-- The index of the next free answer of the random source. -/
  freeIx : Nat
  /-- The answer to the last bus access. -/
  response : Response
  deriving DecidableEq, Repr

/-- The state of the NTE (10_state.md) together with its parameters and the outside world. -/
structure State where
  /-- The parameters `L` and `BASE` (R10). No step changes them. -/
  cfg : Config
  /-- `x0` .. `x15` (R20). -/
  x : Vector Reg 16
  /-- `pt0` .. `pt7` (R24). -/
  pt : Vector Point 8
  /-- `crv.a`, `crv.b`, `crv.p` (R25). -/
  crv : Curve
  /-- `CV` (R25). -/
  cv : Bool
  /-- The pending-command slot (R40). -/
  pend : Option Word
  /-- `DONE` (R27). -/
  done : Bool
  /-- `FATAL` (R27). -/
  fatal : Bool
  /-- `WERR` (R27). -/
  werr : Bool
  /-- `STATUS.CODE` (R33). -/
  code : Code
  /-- `CMD` (R32). -/
  cmd : Word
  /-- `CTRL.IE` (R34). -/
  ie : Bool
  /-- `XSEL.IDX` (R35). -/
  xselIdx : XIdx
  /-- `XSEL.LIMB` (R35). -/
  xselLimb : BitVec 16
  /-- The operation trace of the last run (R48). -/
  trace : List Event
  /-- The level of the reset input: asserted or not (R320). -/
  resetLine : Bool
  /-- The outside world. -/
  env : Env
  deriving DecidableEq, Repr

/-- Why the machine stops. -/
inductive Fault where
  /-- Raised by a bus access whose address is not in the 4096-byte window at `BASE`: the window is the NTE's whole
  address space (R60, R61), so no such address exists in it. Safe: the machine stops where the platform goes on. -/
  | outsideWindow
  deriving DecidableEq, Repr

/-- Why an instruction has no meaning. -/
inductive Refusal where
  /-- Raised by an arm of `exec` whose instruction has no meaning yet; no arm does so now. Safe. -/
  | notModelled (mnemonic : String)
  deriving DecidableEq, Repr

/-- The three outcomes of a step of this machine. -/
abbrev Result := Host.Outcome State Fault Refusal

/-- R50: the state after a hard reset or a soft reset, for any parameters and any outside world. -/
def State.resetFor (c : Config) (e : Env) : State :=
  { cfg := c
    x := Vector.replicate 16 (List.replicate c.limbs 0)
    pt := Vector.replicate 8 .inf
    crv := { a := 0, b := 0, p := 0 }
    cv := false
    pend := none
    done := false
    fatal := false
    werr := false
    code := .ok
    cmd := 0
    ie := false
    xselIdx := 0
    xselLimb := 0
    trace := []
    resetLine := false
    env := e }

/-- The outside world of `State.reset` (DESIGN CHOICE, log entries 1, 3, 6): nothing is known to come. -/
def Env.initial : Env := { inputs := [], draws := [], freeIx := 0, response := .none }

/-- The machine right after reset (R50, R320). -/
def State.reset : State := State.resetFor Config.default Env.initial

end Sys2Proof.Machine
end

