-- ==== Sys2Proof/Machine/Arith.lean ====
section
/-! DEFINITION. The integer functions of the commands: bits of an exponent or scalar (R12), gcd and extended Euclid
(R121, R122), and the two exponentiations with their traces (R126, R127). -/

namespace Sys2Proof.Machine

/-- `bitlen(k)` (R12): the least `n` with `k < 2^n`. -/
def bitlen (k : Nat) : Nat := if k = 0 then 0 else Nat.log2 k + 1

/-- The bits of `k` from bit 0 up to bit `bitlen(k) - 1`: the order in which a loop `while t > 0 … t div 2` meets them. -/
def bitsUp (k : Nat) : List Bool := (List.range (bitlen k)).map k.testBit

/-- The bits of `k` from bit `bitlen(k) - 1` down to bit 0. -/
def bitsDown (k : Nat) : List Bool := (bitsUp k).reverse

/-- The loop of R121; `fuel` bounds the division steps, of which at most `b + 1` can happen. -/
def gcdLoop : Nat → Nat → Nat → Nat
  | 0, a, _ => a
  | fuel + 1, a, b => if b = 0 then a else gcdLoop fuel b (a % b)

/-- GCD's value on `abs(x[ra])`, `abs(x[rb])` (R121). -/
def gcdValue (a b : Nat) : Nat := gcdLoop (b + 1) a b

/-- The recursion of R122; `fuel` bounds its depth, which is at most `b + 1`. -/
def egcdLoop : Nat → Nat → Nat → Nat × Int × Int
  | 0, a, _ => (a, 1, 0)
  | fuel + 1, a, b =>
    if b = 0 then (a, 1, 0)
    else
      let r := egcdLoop fuel b (a % b)
      (r.1, r.2.2, r.2.1 - ((a / b : Nat) : Int) * r.2.2)

/-- `egcd(a, b)` (R122): the triple `(g, x, y)`. -/
def egcd (a b : Nat) : Nat × Int × Int := egcdLoop (b + 1) a b

/-- The modular multiplier (R125): the exact product reduced into `[0, m)`. -/
def mulMod (m u v : Int) : Int := u * v % m

/-- The loop of R126 over the exponent's bits from bit 0 up, from accumulators `r` and `s`: the final `r` and the trace. -/
def powLoop (m : Int) : List Bool → Int → Int → Int × List Event
  | [], r, _ => (r, [])
  | true :: bits, r, s =>
    let rest := powLoop m bits (mulMod m r s) (mulMod m s s)
    (rest.1, .mul :: .sqr :: rest.2)
  | false :: bits, r, s =>
    let rest := powLoop m bits r (mulMod m s s)
    (rest.1, .sqr :: rest.2)

/-- The fast function `modpow(b, e, m)` (R126), for `m ≥ 1`: its value and its trace. -/
def modPow (b : Int) (e : Nat) (m : Int) : Int × List Event :=
  if m = 1 then (0, [])
  else if e = 0 then (1, [])
  else powLoop m (bitsUp e) 1 (b % m)

/-- The ladder of R127 over the exponent's bits from the top down, from accumulators `Q0` and `Q1`. -/
def ladderLoop (m : Int) : List Bool → Int → Int → Int × List Event
  | [], q0, _ => (q0, [])
  | false :: bits, q0, q1 =>
    let rest := ladderLoop m bits (mulMod m q0 q0) (mulMod m q0 q1)
    (rest.1, .mul :: .sqr :: rest.2)
  | true :: bits, q0, q1 =>
    let rest := ladderLoop m bits (mulMod m q0 q1) (mulMod m q1 q1)
    (rest.1, .mul :: .sqr :: rest.2)

/-- The constant-time exponentiation (R127), for `m ≥ 1`: its value and its trace. -/
def modPowCt (b : Int) (e : Nat) (m : Int) : Int × List Event :=
  ladderLoop m (bitsDown e) (1 % m) (b % m)

end Sys2Proof.Machine
end

