-- ==== Sys2Proof/Machine/Operands.lean ====
section
/-! DEFINITION. Operands: how a register's stored bits and its signed value correspond (R12, R13, R20), every read and write
of an integer register, a point register and the curve context, the limb port's slices (R36), and MRTEST's immediate
(R94). -/

namespace Sys2Proof.Machine

/-- The unsigned integer of a register's stored bits, limb 0 least significant (R65). -/
def regBits : Reg → Nat
  | [] => 0
  | l :: ls => l.toNat + 2 ^ 32 * regBits ls

/-- `sext_N(v)` (R12): the signed value of the `n`-bit word `v`. -/
def sext (n v : Nat) : Int := if v < 2 ^ (n - 1) then (v : Int) else (v : Int) - 2 ^ n

/-- The signed value a command reads from a register (R20). -/
def regVal (r : Reg) : Int := sext (32 * r.length) (regBits r)

/-- The `k` limbs of the unsigned integer `u`, limb 0 first. -/
def regOfBits : Nat → Nat → Reg
  | 0, _ => []
  | k + 1, u => BitVec.ofNat 32 u :: regOfBits k (u / 2 ^ 32)

/-- The `k` limbs of the two's-complement form of `v` (R13). -/
def regOfVal (k : Nat) (v : Int) : Reg := regOfBits k (v % 2 ^ (32 * k)).toNat

/-- R16: `v` fits an integer register of `c`, that is `-2^(W-1) ≤ v < 2^(W-1)`. -/
abbrev fits (c : Config) (v : Int) : Prop := -(2 ^ (c.width - 1)) ≤ v ∧ v < 2 ^ (c.width - 1)

/-- `x[i]` (R13): the signed value of integer register `i`. -/
def State.xval (s : State) (i : XIdx) : Int := regVal (s.x[i.val])

/-- `x[i] <- v` (R13), for a `v` that fits. -/
def State.setX (s : State) (i : XIdx) (v : Int) : State :=
  { s with x := s.x.set i.val (regOfVal s.cfg.limbs v) }

/-- `pt[i]` (R13). -/
def State.point (s : State) (i : PIdx) : Point := s.pt[i.val]

/-- `pt[i] <- P` (R13). -/
def State.setPoint (s : State) (i : PIdx) (P : Point) : State := { s with pt := s.pt.set i.val P }

/-- The stored form of a point register (R24): the flag `inf` and the fields `x`, `y`, both zero when `inf = 1`. -/
def Point.stored : Point → Bool × Int × Int
  | .inf => (true, 0, 0)
  | .aff x y => (false, x, y)

/-- Write the curve context and set every point register to `Inf`: what CURVE (R181) and CLEAR (R242) do to both. -/
def State.setContext (s : State) (c : Curve) (valid : Bool) : State :=
  { s with crv := c, cv := valid, pt := Vector.replicate 8 .inf }

/-- R36, read: limb `j` of integer register `i`, none when `j ≥ L`. -/
def State.limb? (s : State) (i : XIdx) (j : Nat) : Option Limb :=
  if j < s.cfg.limbs then some ((s.x[i.val])[j]?.getD 0) else none

/-- R36, write: limb `j` of integer register `i` becomes `v`, its other bits unchanged. -/
def State.setLimb (s : State) (i : XIdx) (j : Nat) (v : Limb) : State :=
  { s with x := s.x.set i.val ((s.x[i.val]).set j v) }

/-- R94: the round count that MRTEST's immediate stands for. -/
def roundsOf (imm8 : BitVec 8) : Nat := if imm8 = 0 then mrDefaultRounds else imm8.toNat

end Sys2Proof.Machine
end

