-- ==== Sys2Proof/Machine/Flags.lean ====
section
/-! DEFINITION. The flags and the words they are read in: STATUS (R33), CTRL (R34), XSEL (R35), PTINF (R37), ID (R30), CONFIG
(R31), the output `irq` (R47), and the numbers of the completion codes (R281). -/

namespace Sys2Proof.Machine

/-- Column "code" of R281. -/
def Code.number : Code → Nat
  | .ok => 0x00
  | .messageTooLarge => 0x01
  | .invalidCiphertext => 0x02
  | .noModularInverse => 0x03
  | .compositeRejected => 0x04
  | .invalidCurvePoint => 0x05
  | .singularCurve => 0x06
  | .divisionByZero => 0x07
  | .invalidSignature => 0x08
  | .eIllegal => 0x10
  | .eRange => 0x11
  | .eOverflow => 0x12
  | .eUnsupported => 0x13
  | .eNoCurve => 0x14
  | .eFatal => 0x15
  | .sNoRoot => 0x16
  | .sUnknown => 0x17

/-- The four codes of class `host`, which the NTE never produces (R302). -/
def Code.isHost : Code → Bool
  | .messageTooLarge | .invalidCiphertext | .compositeRejected | .invalidSignature => true
  | .ok | .noModularInverse | .invalidCurvePoint | .singularCurve | .divisionByZero | .eIllegal | .eRange
  | .eOverflow | .eUnsupported | .eNoCurve | .eFatal | .sNoRoot | .sUnknown => false

/-- `BUSY` (R40). -/
def State.busy (s : State) : Bool := s.pend.isSome

/-- The output `irq` (R47). -/
def State.irq (s : State) : Bool := s.done && s.ie

/-- STATUS (R33): BUSY, DONE, FATAL, WERR, CV in bits 0 to 4, CODE in bits 15:8, the rest 0. -/
def statusWord (s : State) : Word :=
  BitVec.ofNat 32
    (s.busy.toNat + 2 * s.done.toNat + 4 * s.fatal.toNat + 8 * s.werr.toNat + 16 * s.cv.toNat
      + 256 * s.code.number)

/-- CTRL (R34): IE in bit 0; SRST and the reserved bits read 0. -/
def ctrlWord (s : State) : Word := BitVec.ofNat 32 s.ie.toNat

/-- XSEL (R35): IDX in bits 3:0, LIMB in bits 31:16, the reserved bits 0. -/
def xselWord (s : State) : Word := BitVec.ofNat 32 (s.xselIdx.val + 2 ^ 16 * s.xselLimb.toNat)

/-- PTINF (R37): bit `i` is 1 when `pt[i] = Inf`. -/
def ptinfWord (s : State) : Word :=
  BitVec.ofNat 32 ((List.finRange 8).map fun i => if s.point i = .inf then 2 ^ i.val else 0).sum

/-- ID (R30). -/
def idWord : Word := 0x4E544501

/-- CONFIG (R31): `L` in bits 15:0, 16 in bits 23:16, 8 in bits 31:24. -/
def configWord (c : Config) : Word := BitVec.ofNat 32 (8 * 2 ^ 24 + 16 * 2 ^ 16 + c.limbs)

end Sys2Proof.Machine
end

