-- ==== Sys2Proof/Machine/Ops.lean ====
section
/-! DEFINITION. How a command runs and ends (R14, R45, R283): the shared checks, the range check on results, the commit, and
the non-OK end, which is what the NTE has for taking an exception (R289); beside it the host's acknowledgement (R293). -/

namespace Sys2Proof.Machine

/-- The writes a completing command commits together (R45): the curve context with the clearing of the point registers
that goes with it, then integer registers, then point registers. -/
structure Writes where
  context : Option (Curve × Bool) := none
  x : List (XIdx × Int) := []
  pt : List (PIdx × Point) := []
  deriving DecidableEq, Repr

/-- The three ways a command ends (R14). -/
inductive Ending where
  /-- `complete(OK)` with the writes the rule lists. -/
  | complete (w : Writes)
  /-- `raise <Code>`. -/
  | raise (c : Code)
  /-- `fatal DivisionByZero`. -/
  | fatalDivisionByZero
  deriving DecidableEq, Repr

/-- One run of a command (R45): how it ends, its trace (R48), and how many answers of the random source it consumed. -/
structure Run where
  ending : Ending
  trace : List Event := []
  draws : Nat := 0
  deriving DecidableEq, Repr

/-- A run that ends before its pseudocode emits anything. -/
def Run.raised (c : Code) : Run := { ending := .raise c }

/-- The trace of the command `i` where the spec leaves it unspecified: a free value of the command and of the contents it finds
(R48, R326; log entry 4). -/
def State.freeTrace (s : State) (i : Instr) : List Event := Config.freeTrace i s.x s.pt s.crv

/-- The `j`-th coming answer of the random source: the outside world's, or a free value (R152, R153). -/
def Env.answer (e : Env) (j : Nat) : Int := (e.draws[j]?).getD (Config.freeWitness (e.freeIx + j))

/-- The outside world after a run that consumed `k` answers. -/
def Env.consume (e : Env) (k : Nat) : Env := { e with draws := e.draws.drop k, freeIx := e.freeIx + k }

/-- Steps 1 to 3 of R283: FATAL (R282), the encoding check of R97 (R284), the curve check (R285); then the command's own
run. The encoding check of R96 (a) to (d) is the decoder's. -/
def State.checked (s : State) (legal needsCurve : Bool) (body : Run) : Run :=
  if s.fatal then Run.raised .eFatal
  else if !legal then Run.raised .eIllegal
  else if needsCurve && !s.cv then Run.raised .eNoCurve
  else body

/-- The commit of R45, all writes together. -/
def State.commit (s : State) (w : Writes) : State :=
  let s₀ := match w.context with
    | some (c, valid) => s.setContext c valid
    | none => s
  let s₁ := w.x.foldl (fun t p => t.setX p.1 p.2) s₀
  w.pt.foldl (fun t p => t.setPoint p.1 p.2) s₁

/-- R286: every value to be written to an integer register fits. -/
abbrev Writes.fit (c : Config) (w : Writes) : Prop := ∀ p ∈ w.x, fits c p.2

/-- R45, step 3, and STATUS.CODE of step 2: what every end of a command does, whatever its code. -/
def State.finish (s : State) (r : Run) (c : Code) : State :=
  { s with
    pend := none
    done := true
    code := c
    trace := r.trace
    env := s.env.consume r.draws }

/-- The non-OK end (R14, R280, R288, R289): the code, DONE, BUSY clear, and nothing else written. -/
def State.raise (s : State) (r : Run) (c : Code) : State := s.finish r c

/-- The fatal end (R14, R290): as `raise DivisionByZero`, and FATAL is set. -/
def State.raiseFatal (s : State) (r : Run) : State := { s.raise r .divisionByZero with fatal := true }

/-- The end of a run (R14, R45, R283 steps 5 and 6). -/
def State.conclude (s : State) (r : Run) : State :=
  match r.ending with
  | .complete w => if w.fit s.cfg then (s.commit w).finish r .ok else s.raise r .eOverflow
  | .raise c => s.raise r c
  | .fatalDivisionByZero => s.raiseFatal r

/-- A command of the NTE: its shared checks, its own run, its end. Every meaning is one call of this. -/
def State.execute (s : State) (legal needsCurve : Bool) (body : Run) : Result :=
  .next (s.conclude (s.checked legal needsCurve body))

/-- An illegal word in the engine step (R96, R284), after the FATAL check (R282). -/
def State.illegalWord (s : State) : Result :=
  .next (s.conclude (s.checked false false (Run.raised .eIllegal)))

/-- The host's acknowledgement (R293): DONE clears, and `irq` falls with it. -/
def State.acknowledge (s : State) : State := { s with done := false }

/-- Command issue (R46). -/
def State.issue (s : State) (w : Word) : State :=
  { s with cmd := w, pend := some w, done := false, code := .ok }

/-- The reset of the NTE (R50, R320, R322): every field at its reset value; the parameters and the outside world are not
NTE state. -/
def State.toReset (s : State) : State := State.resetFor s.cfg s.env

/-- A refused host access (R41, R36): WERR is set and nothing else changes. -/
def State.refuseAccess (s : State) : State := { s with werr := true }

end Sys2Proof.Machine
end

