-- ==== Sys2Proof/Machine/CurveMoves.lean ====
section
/-! DEFINITION. The curve context and point moves: CURVE, ONCURVE, PLOAD, PINF, PSTORE and PMOV
(44_curve_and_point_moves.md). -/

namespace Sys2Proof.Machine

/-- `disc(a, b, p)` (R180). -/
def disc (a b p : Int) : Int := (4 * a * a * a + 27 * b * b) % p

/-- `oncurve(x, y)` on the curve `c` (R180): reduced coordinates that satisfy the congruence. -/
def onCurve (c : Curve) (x y : Int) : Bool :=
  0 ≤ x && x < c.p && 0 ≤ y && y < c.p && (y * y - (x * x * x + c.a * x + c.b)) % c.p == 0

/-- CURVE's own checks and writes (R181), on operand values; `free` is its trace. -/
def curveRun (a b p : Int) (free : List Event) : Run :=
  if p ≤ 3 then { ending := .raise .eRange, trace := free }
  else if disc a b p = 0 then { ending := .raise .singularCurve, trace := free }
  else { ending := .complete { context := some ({ a := a, b := b, p := p }, true) }, trace := free }

/-- CURVE (R181). -/
def execCurve (ra rb rp : XIdx) (s : State) : Result :=
  s.execute true false (curveRun (s.xval ra) (s.xval rb) (s.xval rp) (s.freeTrace (.curve ra rb rp)))

/-- ONCURVE (R182). -/
def execOncurve (rd rx ry : XIdx) (s : State) : Result :=
  s.execute true true
    { ending := .complete { x := [(rd, if onCurve s.crv (s.xval rx) (s.xval ry) then 1 else 0)] }
      trace := s.freeTrace (.oncurve rd rx ry) }

/-- PLOAD's own check and write (R183), on operand values; `free` is its trace. -/
def ploadRun (pd : PIdx) (c : Curve) (x y : Int) (free : List Event) : Run :=
  if onCurve c x y then { ending := .complete { pt := [(pd, .aff x y)] }, trace := free }
  else { ending := .raise .invalidCurvePoint, trace := free }

/-- PLOAD (R183). -/
def execPload (pd : PIdx) (rx ry : XIdx) (s : State) : Result :=
  s.execute true true (ploadRun pd s.crv (s.xval rx) (s.xval ry) (s.freeTrace (.pload pd rx ry)))

/-- PINF (R184). -/
def execPinf (pd : PIdx) (s : State) : Result :=
  s.execute true true { ending := .complete { pt := [(pd, .inf)] }, trace := s.freeTrace (.pinf pd) }

/-- PSTORE (R185): the stored fields, `(0, 0)` for `Inf`; equal destinations are illegal (R97). -/
def execPstore (rdx rdy : XIdx) (ps : PIdx) (s : State) : Result :=
  s.execute (rdx != rdy) true
    { ending := .complete { x := [(rdx, (s.point ps).stored.2.1), (rdy, (s.point ps).stored.2.2)] }
      trace := s.freeTrace (.pstore rdx rdy ps) }

/-- PMOV (R186). -/
def execPmov (pd ps : PIdx) (s : State) : Result :=
  s.execute true true { ending := .complete { pt := [(pd, s.point ps)] }, trace := s.freeTrace (.pmov pd ps) }

end Sys2Proof.Machine
end

