-- ==== Sys2Proof/Machine/Field.lean ====
section
/-! DEFINITION. The prime-field commands MODADD, MODSUB, MODMUL and MODSQRT (43_field.md). They take their modulus from a
register and do not look at the curve context. -/

namespace Sys2Proof.Machine

/-- The check MODADD, MODSUB and MODMUL share (R161), then the exact value `v` reduced into `[0, m)`; `free` is the trace. -/
def reduceRun (rd : XIdx) (v m : Int) (free : List Event) : Run :=
  if m < 1 then { ending := .raise .eRange, trace := free }
  else { ending := .complete { x := [(rd, v % m)] }, trace := free }

/-- MODADD (R161). -/
def execModadd (rd ra rb rm : XIdx) (s : State) : Result :=
  s.execute true false (reduceRun rd (s.xval ra + s.xval rb) (s.xval rm) (s.freeTrace (.modadd rd ra rb rm)))

/-- MODSUB (R162). -/
def execModsub (rd ra rb rm : XIdx) (s : State) : Result :=
  s.execute true false (reduceRun rd (s.xval ra - s.xval rb) (s.xval rm) (s.freeTrace (.modsub rd ra rb rm)))

/-- MODMUL (R163). -/
def execModmul (rd ra rb rm : XIdx) (s : State) : Result :=
  s.execute true false (reduceRun rd (s.xval ra * s.xval rb) (s.xval rm) (s.freeTrace (.modmul rd ra rb rm)))

/-- MODSQRT's own checks and computation (R164), on operand values; `free` is its trace. -/
def modsqrtRun (rd : XIdx) (a p : Int) (free : List Event) : Run :=
  if p < 1 then { ending := .raise .eRange, trace := free }
  else if p % 4 ≠ 3 then { ending := .raise .eUnsupported, trace := free }
  else if (modPow a ((p - 1) / 2).toNat p).1 ≠ 1 then { ending := .raise .sNoRoot, trace := free }
  else { ending := .complete { x := [(rd, (modPow a ((p + 1) / 4).toNat p).1)] }, trace := free }

/-- MODSQRT (R164). -/
def execModsqrt (rd ra rp : XIdx) (s : State) : Result :=
  s.execute true false (modsqrtRun rd (s.xval ra) (s.xval rp) (s.freeTrace (.modsqrt rd ra rp)))

end Sys2Proof.Machine
end

