-- ==== Sys2Proof/Machine/NumberTheory.lean ====
section
/-! DEFINITION. The number-theory commands GCD, XGCD, MODINV, MODPOW, MODPOWCT and TOTIENT (41_number_theory.md). -/

namespace Sys2Proof.Machine

/-- GCD (R121). -/
def execGcd (rd ra rb : XIdx) (s : State) : Result :=
  s.execute true false
    { ending := .complete { x := [(rd, (gcdValue (s.xval ra).natAbs (s.xval rb).natAbs : Int))] }
      trace := s.freeTrace (.gcd rd ra rb) }

/-- XGCD's own check and computation (R123), on operand values; `free` is its trace. -/
def xgcdRun (rg rx ry : XIdx) (a b : Int) (free : List Event) : Run :=
  if a < 0 ∨ b < 0 then { ending := .raise .eRange, trace := free }
  else
    let r := egcd a.toNat b.toNat
    { ending := .complete { x := [(rg, (r.1 : Int)), (rx, r.2.1), (ry, r.2.2)] }, trace := free }

/-- XGCD (R123); duplicate destinations are illegal (R97). -/
def execXgcd (rg rx ry ra rb : XIdx) (s : State) : Result :=
  s.execute (rg != rx && rg != ry && rx != ry) false
    (xgcdRun rg rx ry (s.xval ra) (s.xval rb) (s.freeTrace (.xgcd rg rx ry ra rb)))

/-- MODINV's own check and computation (R124), on operand values; `free` is its trace. -/
def modinvRun (rd : XIdx) (a n : Int) (free : List Event) : Run :=
  if n < 1 then { ending := .raise .eRange, trace := free }
  else
    let r := egcd (a % n).toNat n.toNat
    if r.1 ≠ 1 then { ending := .raise .noModularInverse, trace := free }
    else { ending := .complete { x := [(rd, r.2.1 % n)] }, trace := free }

/-- MODINV (R124), also ECField's `modInv` (R160). -/
def execModinv (rd ra rn : XIdx) (s : State) : Result :=
  s.execute true false (modinvRun rd (s.xval ra) (s.xval rn) (s.freeTrace (.modinv rd ra rn)))

/-- The checks that MODPOW and MODPOWCT share (R126, R127): modulus, then exponent; then the exponentiation `f`. -/
def powRun (rd : XIdx) (f : Int → Nat → Int → Int × List Event) (b e m : Int) : Run :=
  if m < 1 then Run.raised .eRange
  else if e < 0 then Run.raised .eRange
  else
    let r := f b e.toNat m
    { ending := .complete { x := [(rd, r.1)] }, trace := r.2 }

/-- MODPOW (R126), the fast variant. -/
def execModpow (rd rb re rm : XIdx) (s : State) : Result :=
  s.execute true false (powRun rd modPow (s.xval rb) (s.xval re) (s.xval rm))

/-- MODPOWCT (R127), the Montgomery-ladder variant. -/
def execModpowct (rd rb re rm : XIdx) (s : State) : Result :=
  s.execute true false (powRun rd modPowCt (s.xval rb) (s.xval re) (s.xval rm))

/-- TOTIENT (R129): the product, whatever the operands. -/
def execTotient (rd rp rq : XIdx) (s : State) : Result :=
  s.execute true false
    { ending := .complete { x := [(rd, (s.xval rp - 1) * (s.xval rq - 1))] }
      trace := s.freeTrace (.totient rd rp rq) }

end Sys2Proof.Machine
end

