-- ==== Sys2Proof/Machine/PointArith.lean ====
section
/-! DEFINITION. Point arithmetic: field division and the group law (R200 to R203), and the commands PNEG, PADD and PDBL
(45_point_arithmetic.md). A function answers `none` where it ends the command with `fatal DivisionByZero`. -/

namespace Sys2Proof.Machine

/-- `fdiv(u, v)` (R200) mod `p`. -/
def fdiv (p u v : Int) : Option Int :=
  let r := egcd (v % p).toNat p.toNat
  if r.1 ≠ 1 then none else some (u * (r.2.1 % p) % p)

/-- `pneg(P)` (R201). -/
def pneg (c : Curve) : Point → Point
  | .inf => .inf
  | .aff x y => .aff x ((c.p - y) % c.p)

/-- The third point on the line of slope `lam` through `(x1, y1)` and a point of abscissa `x2`, negated: the formulas for
`x3`, `y3` that R202 and R203 share. -/
def chordPoint (p lam x1 y1 x2 : Int) : Point :=
  let x3 := (lam * lam - x1 - x2) % p
  .aff x3 ((lam * (x1 - x3) - y1) % p)

/-- `pdbl(P)` (R202). -/
def pdbl (c : Curve) : Point → Option Point
  | .inf => some .inf
  | .aff x y =>
    if y = 0 then some .inf
    else (fdiv c.p (3 * x * x + c.a) (2 * y)).map fun lam => chordPoint c.p lam x y x

/-- `padd(P, Q)` (R203), the cases in the rule's order. -/
def padd (c : Curve) : Point → Point → Option Point
  | .inf, q => some q
  | .aff x1 y1, .inf => some (.aff x1 y1)
  | .aff x1 y1, .aff x2 y2 =>
    if x1 = x2 ∧ y1 ≠ y2 then some .inf
    else if x1 = x2 ∧ y1 = y2 then pdbl c (.aff x1 y1)
    else (fdiv c.p (y2 - y1) (x2 - x1)).map fun lam => chordPoint c.p lam x1 y1 x2

/-- PNEG (R204). -/
def execPneg (pd ps : PIdx) (s : State) : Result :=
  s.execute true true
    { ending := .complete { pt := [(pd, pneg s.crv (s.point ps))] }, trace := s.freeTrace (.pneg pd ps) }

/-- The end of a command that computes one point: the write and the one event `ev`, or the fatal end (R205, R206). That the event
is the whole trace, and that the fatal end has none, is the model's reading (log entry 4). -/
def pointRun (pd : PIdx) (ev : Event) : Option Point → Run
  | some P => { ending := .complete { pt := [(pd, P)] }, trace := [ev] }
  | none => { ending := .fatalDivisionByZero }

/-- PADD (R205). -/
def execPadd (pd ps1 ps2 : PIdx) (s : State) : Result :=
  s.execute true true (pointRun pd .padd (padd s.crv (s.point ps1) (s.point ps2)))

/-- PDBL (R206). -/
def execPdbl (pd ps : PIdx) (s : State) : Result :=
  s.execute true true (pointRun pd .pdbl (pdbl s.crv (s.point ps)))

end Sys2Proof.Machine
end

