-- ==== Sys2Proof/Machine/Primality.lean ====
section
/-! DEFINITION. The primality command MRTEST (42_primality.md). -/

namespace Sys2Proof.Machine

/-- The inner loop of R150: square up to `k` times, looking for `n - 1`. -/
def mrSquares (n : Int) : Nat → Int → Bool
  | 0, _ => false
  | k + 1, x => if mulMod n x x = n - 1 then true else mrSquares n k (mulMod n x x)

/-- `mr_round(n, r, d, a)` (R150): `true` is `pass`, `false` is `composite`. -/
def mrRound (n : Int) (r d : Nat) (a : Int) : Bool :=
  let x := (modPow a d n).1
  if x = 1 ∨ x = n - 1 then true else mrSquares n (r - 1) x

/-- The loop of R151 that factors `n - 1 = 2^r * d`: from `d` and `r`, halve `d` while it is even. -/
def twoFactor : Nat → Nat → Nat → Nat × Nat
  | 0, d, r => (r, d)
  | fuel + 1, d, r => if d % 2 = 0 then twoFactor fuel (d / 2) (r + 1) else (r, d)

/-- `RandWitness(n)` (R152) from one answer of the random source: the answer itself when it is in `[2, n - 2]`, and a value
of that range whatever the answer is (log entry 3). -/
def witnessOf (n answer : Int) : Int := 2 + (answer - 2) % (n - 3)

/-- The rounds loop of R151, with `rounds` left and `k` answers consumed: whether every round passed, and the answers
consumed in all. -/
def mrRounds (n : Int) (r d : Nat) (answer : Nat → Int) : Nat → Nat → Bool × Nat
  | 0, k => (true, k)
  | rounds + 1, k =>
    if mrRound n r d (witnessOf n (answer k)) then mrRounds n r d answer rounds (k + 1) else (false, k + 1)

/-- MRTEST's value on `n` and the number of witnesses drawn (R151). -/
def mrTest (n : Int) (rounds : Nat) (answer : Nat → Int) : Int × Nat :=
  if n ≤ 1 then (0, 0)
  else if n = 2 ∨ n = 3 then (1, 0)
  else if n % 2 = 0 then (0, 0)
  else
    let f := twoFactor (bitlen (n - 1).toNat) (n - 1).toNat 0
    let r := mrRounds n f.1 f.2 answer rounds 0
    (if r.1 then 1 else 0, r.2)

/-- MRTEST's run (R151): one `DRAW` per witness. -/
def mrtestRun (rd : XIdx) (n : Int) (rounds : Nat) (answer : Nat → Int) : Run :=
  let r := mrTest n rounds answer
  { ending := .complete { x := [(rd, r.1)] }, trace := List.replicate r.2 .draw, draws := r.2 }

/-- MRTEST (R151). -/
def execMrtest (rd rn : XIdx) (imm8 : BitVec 8) (s : State) : Result :=
  s.execute true false (mrtestRun rd (s.xval rn) (roundsOf imm8) s.env.answer)

end Sys2Proof.Machine
end

