-- ==== Sys2Proof/Machine/Scalar.lean ====
section
/-! DEFINITION. Scalar multiplication and the order search: SMUL, SMULCT and PORDER (46_scalar_multiplication.md). A loop
answers `none` where a `padd` or `pdbl` ends the command with `fatal DivisionByZero`, and its trace holds the events emitted
before that. -/

namespace Sys2Proof.Machine

/-- Put events before a loop's trace. -/
def emitBefore {α : Type} (evs : List Event) (r : α × List Event) : α × List Event := (r.1, evs ++ r.2)

/-- The loop of R221 over the scalar's bits from bit 0 up, from accumulators `R` and `A`. -/
def smulLoop (c : Curve) : List Bool → Point → Point → Option Point × List Event
  | [], R, _ => (some R, [])
  | true :: bits, R, A =>
    match padd c R A with
    | none => (none, [])
    | some R' =>
      match pdbl c A with
      | none => (none, [.padd])
      | some A' => emitBefore [.padd, .pdbl] (smulLoop c bits R' A')
  | false :: bits, R, A =>
    match pdbl c A with
    | none => (none, [])
    | some A' => emitBefore [.pdbl] (smulLoop c bits R A')

/-- The ladder of R222 over the scalar's bits from the top down, from accumulators `Q0` and `Q1`. -/
def smulctLoop (c : Curve) : List Bool → Point → Point → Option Point × List Event
  | [], Q0, _ => (some Q0, [])
  | bit :: bits, Q0, Q1 =>
    match padd c Q0 Q1 with
    | none => (none, [])
    | some S =>
      match pdbl c (if bit then Q1 else Q0) with
      | none => (none, [.padd])
      | some D => emitBefore [.padd, .pdbl] (if bit then smulctLoop c bits S D else smulctLoop c bits D S)

/-- The loop of R223: `n` more additions allowed, at `Q = k * P`. -/
def orderLoop (c : Curve) (P : Point) : Nat → Point → Nat → Option (Point × Nat) × List Event
  | 0, Q, k => (some (Q, k), [])
  | n + 1, Q, k =>
    if Q = .inf then (some (Q, k), [])
    else
      match padd c Q P with
      | none => (none, [])
      | some Q' => emitBefore [.padd] (orderLoop c P n Q' (k + 1))

/-- The end of SMUL and SMULCT from their loop's answer. -/
def scalarRun (pd : PIdx) (r : Option Point × List Event) : Run :=
  match r.1 with
  | some P => { ending := .complete { pt := [(pd, P)] }, trace := r.2 }
  | none => { ending := .fatalDivisionByZero, trace := r.2 }

/-- SMUL's own check and computation (R220, R221), on operand values. -/
def smulRun (pd : PIdx) (c : Curve) (k : Int) (P : Point) : Run :=
  if k < 0 then Run.raised .eRange else scalarRun pd (smulLoop c (bitsUp k.toNat) .inf P)

/-- SMUL (R221), the fast variant. -/
def execSmul (pd : PIdx) (rk : XIdx) (ps : PIdx) (s : State) : Result :=
  s.execute true true (smulRun pd s.crv (s.xval rk) (s.point ps))

/-- SMULCT's own check and computation (R220, R222), on operand values. -/
def smulctRun (pd : PIdx) (c : Curve) (k : Int) (P : Point) : Run :=
  if k < 0 then Run.raised .eRange else scalarRun pd (smulctLoop c (bitsDown k.toNat) .inf P)

/-- SMULCT (R222), the Montgomery ladder. -/
def execSmulct (pd : PIdx) (rk : XIdx) (ps : PIdx) (s : State) : Result :=
  s.execute true true (smulctRun pd s.crv (s.xval rk) (s.point ps))

/-- PORDER's end from its loop's answer (R223). -/
def orderRun (rd : XIdx) (r : Option (Point × Nat) × List Event) : Run :=
  match r.1 with
  | some (.inf, k) => { ending := .complete { x := [(rd, (k : Int))] }, trace := r.2 }
  | some (.aff _ _, _) => { ending := .raise .sUnknown, trace := r.2 }
  | none => { ending := .fatalDivisionByZero, trace := r.2 }

/-- PORDER's own check and computation (R223), on operand values. -/
def porderRun (rd : XIdx) (c : Curve) (P : Point) (M : Int) : Run :=
  if M < 1 then Run.raised .eRange else orderRun rd (orderLoop c P (M - 1).toNat P 1)

/-- PORDER (R223). -/
def execPorder (rd : XIdx) (ps : PIdx) (rmax : XIdx) (s : State) : Result :=
  s.execute true true (porderRun rd s.crv (s.point ps) (s.xval rmax))

end Sys2Proof.Machine
end

