-- ==== Sys2Proof/Machine/System.lean ====
section
/-! DEFINITION. The system commands NOP, MOV and CLEAR (47_system.md). -/

namespace Sys2Proof.Machine

/-- NOP (R240): nothing but STATUS. -/
def execNop (s : State) : Result :=
  s.execute true false { ending := .complete {}, trace := s.freeTrace .nop }

/-- CLEAR's writes (R242): every integer register 0, the curve context 0 with `CV = 0`, every point register `Inf`. -/
def clearWrites : Writes :=
  { context := some ({ a := 0, b := 0, p := 0 }, false)
    x := (List.finRange 16).map fun i => (i, 0) }

/-- CLEAR (R242). FATAL, WERR, CTRL, XSEL and CMD stay. -/
def execClear (s : State) : Result :=
  s.execute true false { ending := .complete clearWrites, trace := s.freeTrace .clear }

/-- MOV (R241): `x[rd] <- x[rs]`. -/
def execMov (rd rs : XIdx) (s : State) : Result :=
  s.execute true false { ending := .complete { x := [(rd, s.xval rs)] }, trace := s.freeTrace (.mov rd rs) }

end Sys2Proof.Machine
end

