-- ==== Sys2Proof/Machine/Dispatch.lean ====
section
/-! DEFINITION. One arm per command: the run of a command and its commit (R45, R283). -/

namespace Sys2Proof.Machine

def exec (i : Instr) (s : State) : Host.Outcome State Fault Refusal :=
  match i with
  | .nop => Sys2Proof.Machine.execNop s
  | .clear => Sys2Proof.Machine.execClear s
  | .mov rd rs => Sys2Proof.Machine.execMov rd rs s
  | .gcd rd ra rb => Sys2Proof.Machine.execGcd rd ra rb s
  | .xgcd rg rx ry ra rb => Sys2Proof.Machine.execXgcd rg rx ry ra rb s
  | .modinv rd ra rn => Sys2Proof.Machine.execModinv rd ra rn s
  | .modpow rd rb re rm => Sys2Proof.Machine.execModpow rd rb re rm s
  | .modpowct rd rb re rm => Sys2Proof.Machine.execModpowct rd rb re rm s
  | .totient rd rp rq => Sys2Proof.Machine.execTotient rd rp rq s
  | .mrtest rd rn imm8 => Sys2Proof.Machine.execMrtest rd rn imm8 s
  | .modadd rd ra rb rm => Sys2Proof.Machine.execModadd rd ra rb rm s
  | .modsub rd ra rb rm => Sys2Proof.Machine.execModsub rd ra rb rm s
  | .modmul rd ra rb rm => Sys2Proof.Machine.execModmul rd ra rb rm s
  | .modsqrt rd ra rp => Sys2Proof.Machine.execModsqrt rd ra rp s
  | .curve ra rb rp => Sys2Proof.Machine.execCurve ra rb rp s
  | .oncurve rd rx ry => Sys2Proof.Machine.execOncurve rd rx ry s
  | .pload pd rx ry => Sys2Proof.Machine.execPload pd rx ry s
  | .pinf pd => Sys2Proof.Machine.execPinf pd s
  | .pstore rdx rdy ps => Sys2Proof.Machine.execPstore rdx rdy ps s
  | .pmov pd ps => Sys2Proof.Machine.execPmov pd ps s
  | .pneg pd ps => Sys2Proof.Machine.execPneg pd ps s
  | .padd pd ps1 ps2 => Sys2Proof.Machine.execPadd pd ps1 ps2 s
  | .pdbl pd ps => Sys2Proof.Machine.execPdbl pd ps s
  | .smul pd rk ps => Sys2Proof.Machine.execSmul pd rk ps s
  | .smulct pd rk ps => Sys2Proof.Machine.execSmulct pd rk ps s
  | .porder rd ps rmax => Sys2Proof.Machine.execPorder rd ps rmax s

end Sys2Proof.Machine
end

