-- ==== Sys2Proof/Machine/Window.lean ====
section
/-! DEFINITION. The register window (10_state.md R28 to R38, R41, R46) and the bus accesses that reach it (20_memory.md R63 to
R67). -/

namespace Sys2Proof.Machine

/-- R65: the byte lanes of a word, lane 0 carrying bits 7:0. -/
def lanesOf (w : Word) : List Byte :=
  [BitVec.ofNat 8 w.toNat, BitVec.ofNat 8 (w.toNat / 2 ^ 8), BitVec.ofNat 8 (w.toNat / 2 ^ 16),
    BitVec.ofNat 8 (w.toNat / 2 ^ 24)]

/-- R65: the number whose byte lanes are `l`, lane 0 least significant. -/
def lanesNat : List Byte → Nat
  | [] => 0
  | b :: l => b.toNat + 2 ^ 8 * lanesNat l

/-- R65: the word that four byte lanes carry. -/
def wordOf (l : List Byte) : Word := BitVec.ofNat 32 (lanesNat l)

/-- R36, read of XLIMB: the selected limb; 0 and WERR when `LIMB ≥ L`. -/
def readXlimb (s : State) : Word × State :=
  match s.limb? s.xselIdx s.xselLimb.toNat with
  | some v => (v, s)
  | none => (0, s.refuseAccess)

/-- A word read at offset `off` of the window (R28, R38): the word and the state after. -/
def windowRead (off : Nat) (s : State) : Word × State :=
  match off with
  | 0x00 => (idWord, s)
  | 0x04 => (configWord s.cfg, s)
  | 0x08 => (s.cmd, s)
  | 0x0C => (statusWord s, s)
  | 0x10 => (ctrlWord s, s)
  | 0x14 => (xselWord s, s)
  | 0x18 => readXlimb s
  | 0x1C => (ptinfWord s, s)
  | _ => (0, s)

/-- R41: a write that is refused while BUSY. -/
def State.unlessBusy (s t : State) : State := if s.busy then s.refuseAccess else t

/-- A write to STATUS (R33): 1 in bit 1 clears DONE, 1 in bit 3 clears WERR. -/
def writeStatus (v : Word) (s : State) : State :=
  let t := if v.getLsbD 1 then s.acknowledge else s
  if v.getLsbD 3 then { t with werr := false } else t

/-- A write to CTRL that is not refused (R34): SRST resets and does nothing else; else IE takes bit 0. -/
def writeCtrl (v : Word) (s : State) : State :=
  if v.getLsbD 1 then s.toReset else { s with ie := v.getLsbD 0 }

/-- A write to XSEL that is not refused (R35). -/
def writeXsel (v : Word) (s : State) : State :=
  { s with xselIdx := Fin.ofNat 16 v.toNat, xselLimb := BitVec.ofNat 16 (v.toNat / 2 ^ 16) }

/-- A write to XLIMB that is not refused because of BUSY (R36). -/
def writeXlimb (v : Word) (s : State) : State :=
  if s.xselLimb.toNat < s.cfg.limbs then s.setLimb s.xselIdx s.xselLimb.toNat v else s.refuseAccess

/-- A word write of `v` at offset `off` of the window (R28, R38): read-only and reserved words ignore it. -/
def windowWrite (off : Nat) (v : Word) (s : State) : State :=
  match off with
  | 0x08 => s.unlessBusy (s.issue v)
  | 0x0C => writeStatus v s
  | 0x10 => s.unlessBusy (writeCtrl v s)
  | 0x14 => s.unlessBusy (writeXsel v s)
  | 0x18 => s.unlessBusy (writeXlimb v s)
  | _ => s

/-- The bus's answer to an access. -/
def State.respond (s : State) (r : Response) : State := { s with env := { s.env with response := r } }

/-- The address is in the window (R60). -/
abbrev State.inWindow (s : State) (addr : Nat) : Prop := s.cfg.base ≤ addr ∧ addr < s.cfg.base + windowBytes

/-- R63: the one kind of access that is accepted, four bytes at an offset that is a multiple of 4. -/
abbrev State.accepted (s : State) (addr bytes : Nat) : Prop := bytes = 4 ∧ (addr - s.cfg.base) % 4 = 0

/-- A bus read (R63, R64, R320). -/
def busRead (addr bytes : Nat) (s : State) : Result :=
  if ¬ s.inWindow addr then .fault .outsideWindow
  else if s.resetLine then .next (s.respond .none)
  else if s.accepted addr bytes then
    let r := windowRead (addr - s.cfg.base) s
    .next (r.2.respond (.data (lanesOf r.1)))
  else .next (s.respond .busError)

/-- A bus write (R63, R64, R320). -/
def busWrite (addr : Nat) (lanes : List Byte) (s : State) : Result :=
  if ¬ s.inWindow addr then .fault .outsideWindow
  else if s.resetLine then .next (s.respond .none)
  else if s.accepted addr lanes.length then
    .next ((windowWrite (addr - s.cfg.base) (wordOf lanes) s).respond .ack)
  else .next (s.respond .busError)

/-- The reset input (R320): asserted, the NTE answers no access; released, its state is the reset state. -/
def driveReset (asserted : Bool) (s : State) : State :=
  if asserted then { s with resetLine := true }
  else if s.resetLine then s.toReset
  else s

end Sys2Proof.Machine
end

