-- ==== Sys2Proof/Machine/Engine.lean ====
section
/-! DEFINITION. The engine's turn (R45) and what each input does (R69): the step only picks which of them is next. -/

namespace Sys2Proof.Machine

/-- R45, R283: run the command word `c`; a word that R96 (a) to (d) makes illegal ends by R284. -/
def runWord (c : Word) (s : State) : Result :=
  match decode c with
  | .ok i => exec i s
  | .error _ => s.illegalWord

/-- The engine's turn (R45): enabled exactly when a word is pending, and not while the reset input is asserted (R320);
where it is not enabled nothing happens. -/
def engineTurn (s : State) : Result :=
  if s.resetLine then .next s
  else
    match s.pend with
    | some c => runWord c s
    | none => .next s

/-- The inputs left after the first. -/
def State.popInput (s : State) (rest : List Input) : State := { s with env := { s.env with inputs := rest } }

/-- What one input does. -/
def applyInput (i : Input) (s : State) : Result :=
  match i with
  | .read addr bytes => busRead addr bytes s
  | .write addr lanes => busWrite addr lanes s
  | .engine => engineTurn s
  | .resetLine asserted => .next (driveReset asserted s)

/-- A word placed as the pending command (as R46 places it), the reset input released, and the engine's turn coming next
(log entry 11). -/
def State.placeWord (s : State) (w : Word) : State :=
  { s.issue w with
    resetLine := false
    env := { s.env with inputs := .engine :: s.env.inputs } }

end Sys2Proof.Machine
end

