-- ==== Sys2Proof/Machine/Step.lean ====
section
/-! DEFINITION. The step: one transition of the total order of R69. -/

namespace Sys2Proof.Machine

/-- One transition (R69): the first input of the outside world; with no input known to come, the engine's turn (R40: a
pending command is run; an idle NTE does nothing, R301). -/
def step (s : State) : Host.Outcome State Fault Refusal :=
  match s.env.inputs with
  | [] => engineTurn s
  | i :: rest => applyInput i (s.popInput rest)

/-- `s` with the word `w` pending and the engine's turn next: the very next step runs it (log entry 11). -/
def State.withFetchWord (s : State) (nbits w : Nat) : State := s.placeWord (BitVec.ofNat 32 (w % 2 ^ nbits))

end Sys2Proof.Machine
end

