-- ==== Sys2Proof/Machine/Assembly.lean ====
section
/-! DEFINITION. The assembler's syntax (R99) and its pseudo-instructions (R100): one command a line, the mnemonic in lower
case, operands separated by commas, a comment from `#` to the end of the line. -/

namespace Sys2Proof.Machine

/-- An operand as R99 writes it: `x0` .. `x15`, `pt0` .. `pt7`, a decimal number 0 to 255. -/
inductive AsmOperand where
  | xreg (i : XIdx)
  | preg (i : PIdx)
  | imm (v : BitVec 8)
  deriving DecidableEq, Repr

/-- What a line of R99 holds: nothing, a command, or what is no line of the syntax. -/
inductive AsmLine where
  | empty
  | command (i : Instr)
  | malformed
  deriving DecidableEq, Repr

/-- A space or a tab. -/
def isBlank (c : Char) : Bool := c == ' ' || c == '\t'

/-- Drop blanks at both ends. -/
def trimBlanks (l : List Char) : List Char := ((l.dropWhile isBlank).reverse.dropWhile isBlank).reverse

/-- Split at each comma. -/
def splitCommas : List Char → List (List Char)
  | [] => [[]]
  | c :: l =>
    match splitCommas l with
    | [] => [[]]
    | w :: ws => if c == ',' then [] :: w :: ws else (c :: w) :: ws

/-- The decimal number of at most three digits that the characters spell, written without leading zeros. -/
def decimal? : List Char → Option Nat
  | [a] => if a.isDigit then some (a.toNat - 48) else none
  | [a, b] => if a.isDigit && b.isDigit && a != '0' then some ((a.toNat - 48) * 10 + (b.toNat - 48)) else none
  | [a, b, c] =>
    if a.isDigit && b.isDigit && c.isDigit && a != '0' then
      some ((a.toNat - 48) * 100 + (b.toNat - 48) * 10 + (c.toNat - 48))
    else none
  | _ => none

/-- One operand (R99). -/
def operand? : List Char → Option AsmOperand
  | 'x' :: l => (decimal? l).bind fun n => if h : n < 16 then some (.xreg ⟨n, h⟩) else none
  | 'p' :: 't' :: l => (decimal? l).bind fun n => if h : n < 8 then some (.preg ⟨n, h⟩) else none
  | l => (decimal? l).bind fun n => if n < 256 then some (.imm (BitVec.ofNat 8 n)) else none

/-- The operands of a line; none where one is malformed. -/
def operands? (l : List Char) : Option (List AsmOperand) :=
  if (trimBlanks l).isEmpty then some [] else (splitCommas l).mapM fun w => operand? (trimBlanks w)

/-- The command of a mnemonic and its operands (R95, R99), the pseudo-instructions of R100 among them. -/
def command? (mnemonic : String) (ops : List AsmOperand) : Option Instr :=
  match mnemonic, ops with
  | "nop", [] => some .nop
  | "clear", [] => some .clear
  | "mov", [.xreg a, .xreg b] => some (.mov a b)
  | "gcd", [.xreg a, .xreg b, .xreg c] => some (.gcd a b c)
  | "xgcd", [.xreg a, .xreg b, .xreg c, .xreg d, .xreg e] => some (.xgcd a b c d e)
  | "modinv", [.xreg a, .xreg b, .xreg c] => some (.modinv a b c)
  | "modpow", [.xreg a, .xreg b, .xreg c, .xreg d] => some (.modpow a b c d)
  | "modpowct", [.xreg a, .xreg b, .xreg c, .xreg d] => some (.modpowct a b c d)
  | "totient", [.xreg a, .xreg b, .xreg c] => some (.totient a b c)
  | "mrtest", [.xreg a, .xreg b, .imm n] => some (.mrtest a b n)
  | "modadd", [.xreg a, .xreg b, .xreg c, .xreg d] => some (.modadd a b c d)
  | "modsub", [.xreg a, .xreg b, .xreg c, .xreg d] => some (.modsub a b c d)
  | "modmul", [.xreg a, .xreg b, .xreg c, .xreg d] => some (.modmul a b c d)
  | "modsqrt", [.xreg a, .xreg b, .xreg c] => some (.modsqrt a b c)
  | "curve", [.xreg a, .xreg b, .xreg c] => some (.curve a b c)
  | "oncurve", [.xreg a, .xreg b, .xreg c] => some (.oncurve a b c)
  | "pload", [.preg a, .xreg b, .xreg c] => some (.pload a b c)
  | "pinf", [.preg a] => some (.pinf a)
  | "pstore", [.xreg a, .xreg b, .preg c] => some (.pstore a b c)
  | "pmov", [.preg a, .preg b] => some (.pmov a b)
  | "pneg", [.preg a, .preg b] => some (.pneg a b)
  | "padd", [.preg a, .preg b, .preg c] => some (.padd a b c)
  | "pdbl", [.preg a, .preg b] => some (.pdbl a b)
  | "smul", [.preg a, .xreg b, .preg c] => some (.smul a b c)
  | "smulct", [.preg a, .xreg b, .preg c] => some (.smulct a b c)
  | "porder", [.xreg a, .preg b, .xreg c] => some (.porder a b c)
  | "finv", [.xreg a, .xreg b, .xreg c] => some (Instr.finv a b c)
  | "isprime", [.xreg a, .xreg b] => some (Instr.isprime a b)
  | "modsqr", [.xreg a, .xreg b, .xreg c] => some (Instr.modsqr a b c)
  | _, _ => none

/-- One line of assembly (R99). -/
def assembleLine (line : String) : AsmLine :=
  let code := trimBlanks (line.toList.takeWhile (· != '#'))
  if code.isEmpty then .empty
  else
    let name := code.takeWhile (! isBlank ·)
    match (operands? (code.dropWhile (! isBlank ·))).bind (command? (String.ofList name)) with
    | some i => .command i
    | none => .malformed

/-- The name of an integer register (R99). -/
def xName (i : XIdx) : String := "x" ++ i.val.repr

/-- The name of a point register (R99). -/
def pName (i : PIdx) : String := "pt" ++ i.val.repr

/-- A mnemonic and its operands as one line (R99). -/
def asmLine (mnemonic : String) (ops : List String) : String :=
  if ops.isEmpty then mnemonic else mnemonic ++ " " ++ ", ".intercalate ops

/-- A command as R99 writes it. -/
def asmOf : Instr → String
  | .nop => asmLine "nop" []
  | .clear => asmLine "clear" []
  | .mov a b => asmLine "mov" [xName a, xName b]
  | .gcd a b c => asmLine "gcd" [xName a, xName b, xName c]
  | .xgcd a b c d e => asmLine "xgcd" [xName a, xName b, xName c, xName d, xName e]
  | .modinv a b c => asmLine "modinv" [xName a, xName b, xName c]
  | .modpow a b c d => asmLine "modpow" [xName a, xName b, xName c, xName d]
  | .modpowct a b c d => asmLine "modpowct" [xName a, xName b, xName c, xName d]
  | .totient a b c => asmLine "totient" [xName a, xName b, xName c]
  | .mrtest a b n => asmLine "mrtest" [xName a, xName b, n.toNat.repr]
  | .modadd a b c d => asmLine "modadd" [xName a, xName b, xName c, xName d]
  | .modsub a b c d => asmLine "modsub" [xName a, xName b, xName c, xName d]
  | .modmul a b c d => asmLine "modmul" [xName a, xName b, xName c, xName d]
  | .modsqrt a b c => asmLine "modsqrt" [xName a, xName b, xName c]
  | .curve a b c => asmLine "curve" [xName a, xName b, xName c]
  | .oncurve a b c => asmLine "oncurve" [xName a, xName b, xName c]
  | .pload a b c => asmLine "pload" [pName a, xName b, xName c]
  | .pinf a => asmLine "pinf" [pName a]
  | .pstore a b c => asmLine "pstore" [xName a, xName b, pName c]
  | .pmov a b => asmLine "pmov" [pName a, pName b]
  | .pneg a b => asmLine "pneg" [pName a, pName b]
  | .padd a b c => asmLine "padd" [pName a, pName b, pName c]
  | .pdbl a b => asmLine "pdbl" [pName a, pName b]
  | .smul a b c => asmLine "smul" [pName a, xName b, pName c]
  | .smulct a b c => asmLine "smulct" [pName a, xName b, pName c]
  | .porder a b c => asmLine "porder" [xName a, pName b, xName c]

end Sys2Proof.Machine
end

