-- ==== Sys2Proof/Machine/HostProc.lean ====
section
/-! DEFINITION. The host procedures of 48_host_procedures.md (R250 to R263) and the access recipes of 20_memory.md section 5:
programs of the host over the register window. They are no commands and have no NTE state (R5). What they are given from
outside (parameters, random draws, hash, nonce, key derivation, cancellation) are arguments (log entry 12). -/

namespace Sys2Proof.Machine

/-- Which of the two variants a call site uses (R258, U1). -/
inductive Variant where
  | fast | ladder
  deriving DecidableEq, Repr

/-- The OPEN parameters of R251. -/
structure HostParams where
  smallPrimes : List Nat
  minPqDiff : Nat → Nat
  attemptCap : Nat
  yieldPeriod : Nat
  variant : Variant := .fast

/-- The constraints R251 puts on the OPEN parameters: SMALL_PRIMES is a list of primes, ATTEMPT_CAP and YIELD_PERIOD are
positive. A host's parameters are legal; the procedures are total on any. -/
abbrev HostParams.legal (ps : HostParams) : Prop :=
  (∀ q ∈ ps.smallPrimes, q.Prime) ∧ 1 ≤ ps.attemptCap ∧ 1 ≤ ps.yieldPeriod

/-- The host-side oracles: `HostRandom`'s answers by index, `Hash` to an integer, `Nonce(d, h, attempt)`, the key derivation
from `S.x` to a value of a fixed length, and whether the procedure has been cancelled by its `k`-th yield (R250, R251, R257,
R260, R261). -/
structure HostOracle where
  random : Nat → Int
  hash : List Byte → Nat
  nonce : Int → Int → Nat → Int
  keyBytes : Nat
  kdf : Int → Vector Byte keyBytes
  cancelled : Nat → Bool

/-- The public exponent `E` (R251). -/
def publicExponent : Int := 65537

/-- How a host procedure fails: one of MF's error kinds (R263), the attempt cap (R251), a cancellation (R257), or a shared point
`Inf`, which has no `x` to derive a key from (R260 leaves it open, log entry 12). -/
inductive HostFailure where
  | kind (c : Code)
  | attemptCap
  | cancelled
  | noSharedX
  deriving DecidableEq, Repr

/-- The `stage` of a progress report (R257): which long loop reports. MF gives it no contents (log entry 14). -/
inductive Stage where
  | prime
  | keyPair
  deriving DecidableEq, Repr

/-- What a procedure works on: the NTE, how many draws and yields it has made, and the invocations of the progress callback,
first one first, each with its `stage` and its `attemptInfo` (R257; log entry 14). -/
structure HostState where
  nte : State
  drawIx : Nat
  yields : Nat
  reports : List (Stage × Nat)
  deriving DecidableEq, Repr

/-- A host procedure. -/
abbrev HostM := EStateM HostFailure HostState

/-- The host's bus write of a word at `BASE + off` (R63). -/
def hostWrite (off : Nat) (v : Word) : HostM Unit :=
  modify fun h => { h with nte := windowWrite off v h.nte }

/-- The host's bus read of a word at `BASE + off` (R63). -/
def hostRead (off : Nat) : HostM Word :=
  modifyGet fun h => ((windowRead off h.nte).1, { h with nte := (windowRead off h.nte).2 })

/-- XSEL's word for limb `j` of register `i`: `(j << 16) | i` (20_memory.md section 5). -/
def xselFor (i : XIdx) (j : Nat) : Word := BitVec.ofNat 32 (j * 2 ^ 16 + i.val)

/-- `load x_i <- v` (20_memory.md section 5): every limb of the two's-complement form of `v`. -/
def loadX (i : XIdx) (v : Int) : HostM Unit := do
  let h ← get
  (List.range h.nte.cfg.limbs).forM fun j => do
    hostWrite 0x14 (xselFor i j)
    hostWrite 0x18 (BitVec.ofNat 32 ((v % 2 ^ h.nte.cfg.width).toNat / 2 ^ (32 * j)))

/-- `read x_i` (20_memory.md section 5). -/
def readX (i : XIdx) : HostM Int := do
  let h ← get
  let u ← (List.range h.nte.cfg.limbs).foldlM (fun u j => do
    hostWrite 0x14 (xselFor i j)
    let w ← hostRead 0x18
    pure (u + w.toNat * 2 ^ (32 * j))) 0
  pure (sext h.nte.cfg.width u)

/-- The engine's step that the host waits for by polling DONE. -/
def awaitDone : HostM Unit :=
  modify fun h =>
    match engineTurn h.nte with
    | .next t => { h with nte := t }
    | .fault _ => h
    | .refused _ => h

/-- `run <command>` (20_memory.md section 5): issue, wait, read STATUS.CODE. -/
def runCmd (i : Instr) : HostM Nat := do
  hostWrite 0x08 (encode i)
  awaitDone
  let status ← hostRead 0x0C
  pure (status.toNat / 2 ^ 8 % 2 ^ 8)

/-- PTINF bit `i` (R37). -/
def readInf (i : PIdx) : HostM Bool := do
  let w ← hostRead 0x1C
  pure (w.getLsbD i.val)

/-- `HostRandom(lo, hi)` (48_host_procedures.md): the oracle's next answer, brought into `[lo, hi]`. -/
def hostRandom (o : HostOracle) (lo hi : Int) : HostM Int :=
  modifyGet fun h => (lo + (o.random h.drawIx - lo) % (hi - lo + 1), { h with drawIx := h.drawIx + 1 })

/-- A yield (R257, R332), between commands only; on a cancellation the host issues CLEAR and ends. -/
def yieldPoint (o : HostOracle) : HostM Unit := do
  let h ← get
  set { h with yields := h.yields + 1 }
  if o.cancelled h.yields then
    let _ ← runCmd .clear
    throw .cancelled

/-- Whether attempt number `attempt` of a loop is one that YIELD_PERIOD divides (R252). -/
def HostParams.periodic (ps : HostParams) (attempt : Nat) : Bool := attempt % ps.yieldPeriod == 0

/-- The optional progress callback `(stage, attemptInfo) -> void` (R257), where `onProgress` says that there is one. That it is
invoked at the attempt numbers that YIELD_PERIOD divides, and is told the number, is the model's choice (log entry 14). -/
def reportProgress (ps : HostParams) (onProgress : Bool) (stage : Stage) (attempt : Nat) : HostM Unit :=
  if onProgress && ps.periodic attempt then
    modify fun h => { h with reports := h.reports ++ [(stage, attempt)] }
  else pure ()

/-- MF's KeyPair (R250). -/
structure KeyPair where
  e : Int
  d : Int
  n : Int
  p : Int
  q : Int
  phi : Int
  deriving DecidableEq, Repr

/-- MF's invariant of a KeyPair (R250). -/
abbrev KeyPair.valid (k : KeyPair) : Prop :=
  k.n = k.p * k.q ∧ k.p ≠ k.q ∧ k.phi = (k.p - 1) * (k.q - 1) ∧ Int.gcd k.e k.phi = 1 ∧ k.e * k.d % k.phi = 1

/-- MF's Signature (R250). -/
structure Signature where
  r : Int
  s : Int
  deriving DecidableEq, Repr

/-- Both members of a signature are in `[1, n - 1]` (R250). -/
abbrev Signature.inRange (sig : Signature) (n : Int) : Prop :=
  (1 ≤ sig.r ∧ sig.r ≤ n - 1) ∧ (1 ≤ sig.s ∧ sig.s ≤ n - 1)

/-- The part of MF's CurveParams that the NTE does not hold (R250): the generator `G = (gx, gy)`, the group order `n` and the
cofactor `h`, which no procedure uses. -/
structure GroupParams where
  gx : Int
  gy : Int
  n : Int
  h : Int
  deriving DecidableEq, Repr

/-- MF's CurveParams (R250): the curve, and for a named curve its group. -/
structure CurveParams where
  curve : Curve
  group : Option GroupParams
  deriving DecidableEq, Repr

/-- The host binds a curve (R181), through the registers that the programs of 95_test_vectors.md use; the answer is CURVE's
code. -/
def loadCurve (c : Curve) : HostM Nat := do
  loadX 0 c.a
  loadX 1 c.b
  loadX 2 c.p
  runCmd (.curve 0 1 2)

/-- The host loads a group (R250): `G` into `pt0` by PLOAD, `n` into `x15`, and the zero of R261 and R262 into `x14`; the answer
is PLOAD's code. -/
def loadGroup (g : GroupParams) : HostM Nat := do
  loadX 3 g.gx
  loadX 4 g.gy
  loadX 15 g.n
  loadX 14 0
  runCmd (.pload 0 3 4)

/-- The host sets a domain up, as the premises of R259, R261 and R262 need it; the answer is the first code that is not OK, or
OK. -/
def loadDomain (c : CurveParams) : HostM Nat := do
  let code ← loadCurve c.curve
  if code != Code.ok.number then return code
  match c.group with
  | some g => loadGroup g
  | none => return code

/-- R252: an odd candidate of exactly `bits` bits from a draw in `[2^(bits-1), 2^bits - 1]`. -/
def oddCandidate (draw : Int) : Int := 2 * (draw / 2) + 1

/-- R252: some listed small prime other than `c` divides `c`. The rule lets the trial division be done on the host or with
MODADD; here the host does it (DESIGN CHOICE, log entry 12). -/
def smallDivisor (ps : HostParams) (c : Int) : Bool :=
  ps.smallPrimes.any fun q => c % (q : Int) == 0 && (q : Int) != c

/-- The loop of R252, from attempt number `attempt`, with `fuel` attempts left. -/
def primeLoop (o : HostOracle) (ps : HostParams) (bits : Nat) (onProgress : Bool) : Nat → Nat → HostM Int
  | 0, _ => throw .attemptCap
  | fuel + 1, attempt => do
    reportProgress ps onProgress .prime attempt
    if ps.periodic attempt then yieldPoint o
    let draw ← hostRandom o (2 ^ (bits - 1)) (2 ^ bits - 1)
    let c := oddCandidate draw
    if smallDivisor ps c then primeLoop o ps bits onProgress fuel (attempt + 1)
    else
      loadX 0 c
      let _ ← runCmd (.mrtest 1 0 0)
      let v ← readX 1
      if v == 1 then pure c else primeLoop o ps bits onProgress fuel (attempt + 1)

/-- `generatePrime(bits, onProgress?)` (R252). The rule wants `bits` in `[2, W - 1]` and gives no behaviour outside; there the
model makes no check and runs the same loop, and a candidate that does not fit is tested truncated to `W` bits
(DESIGN CHOICE, log entry 15). -/
def generatePrime (o : HostOracle) (ps : HostParams) (bits : Nat) (onProgress : Bool := false) : HostM Int :=
  primeLoop o ps bits onProgress ps.attemptCap 1

/-- R253: regenerate `q` until it differs from `p`, at most `fuel` times. -/
def otherPrime (o : HostOracle) (ps : HostParams) (bits : Nat) (onProgress : Bool) (p : Int) : Nat → HostM Int
  | 0 => throw .attemptCap
  | fuel + 1 => do
    let q ← generatePrime o ps bits onProgress
    if q == p then otherPrime o ps bits onProgress p fuel else pure q

/-- R253 after `p` and `q`: the commands that make the key pair, or none where the rule restarts. -/
def keyFromPrimes (p q : Int) : HostM (Option KeyPair) := do
  loadX 0 p
  loadX 1 q
  loadX 2 publicExponent
  let _ ← runCmd (.totient 3 0 1)
  let _ ← runCmd (.gcd 4 2 3)
  let g ← readX 4
  if g != 1 then return none
  let code ← runCmd (.modinv 5 2 3)
  if code == Code.noModularInverse.number then return none
  let _ ← runCmd (.modmul 6 2 5 3)
  let v ← readX 6
  if v != 1 then return none
  let d ← readX 5
  let phi ← readX 3
  return some { e := publicExponent, d := d, n := p * q, p := p, q := q, phi := phi }

/-- The restart loop of R253, from attempt number `attempt`, with `fuel` attempts left. Whether an inner `generatePrime` that
reaches ATTEMPT_CAP fails the whole generation or restarts it is open (R251, N14); here its failure ends key generation at
once (DESIGN CHOICE, log entry 12). -/
def keyLoop (o : HostOracle) (ps : HostParams) (bits : Nat) (onProgress : Bool) : Nat → Nat → HostM KeyPair
  | 0, _ => throw .attemptCap
  | fuel + 1, attempt => do
    reportProgress ps onProgress .keyPair attempt
    let p ← generatePrime o ps (bits / 2) onProgress
    let q ← otherPrime o ps (bits / 2) onProgress p ps.attemptCap
    if (p - q).natAbs < ps.minPqDiff bits then keyLoop o ps bits onProgress fuel (attempt + 1)
    else
      match ← keyFromPrimes p q with
      | some k => pure k
      | none => keyLoop o ps bits onProgress fuel (attempt + 1)

/-- `generateKeyPair(bits, onProgress?)` (R253); for odd `bits`, on which the source is silent, each prime has the integer part of
`bits / 2` bits (DESIGN CHOICE, log entry 15). -/
def generateKeyPair (o : HostOracle) (ps : HostParams) (bits : Nat) (onProgress : Bool := false) : HostM KeyPair :=
  keyLoop o ps bits onProgress ps.attemptCap 1

/-- The exponentiation command of a call site (R258). -/
def powInstr (v : Variant) (rd rb re rm : XIdx) : Instr :=
  match v with
  | .fast => .modpow rd rb re rm
  | .ladder => .modpowct rd rb re rm

/-- The scalar multiplication command of a call site (R258). -/
def smulInstr (v : Variant) (pd : PIdx) (rk : XIdx) (ps : PIdx) : Instr :=
  match v with
  | .fast => .smul pd rk ps
  | .ladder => .smulct pd rk ps

/-- R254, R255: the exponentiation that encryption and decryption share. -/
def rsaPower (ps : HostParams) (base exponent n : Int) : HostM Int := do
  loadX 0 base
  loadX 1 exponent
  loadX 2 n
  let _ ← runCmd (powInstr ps.variant 3 0 1 2)
  readX 3

/-- `encrypt(m, (e, n))` (R254). -/
def encrypt (ps : HostParams) (m e n : Int) : HostM Int :=
  if 0 ≤ m ∧ m < n then rsaPower ps m e n else throw (.kind .messageTooLarge)

/-- `decrypt(c, (d, n))` (R255). -/
def decrypt (ps : HostParams) (c d n : Int) : HostM Int :=
  if 0 ≤ c ∧ c < n then rsaPower ps c d n else throw (.kind .invalidCiphertext)

/-- The string codec (R256): a message's bytes as a base-256 big-endian number. The empty message, on which the source is silent,
encodes to 0 (DESIGN CHOICE, log entry 16). -/
def messageToInt (bytes : List Byte) : Nat := bytes.foldl (fun m b => m * 256 + b.toNat) 0

/-- The inverse of the codec (R256) for a message of `len` bytes: how many leading zero bytes a decoder restores is not in
the source, so the length is an argument, and length 0 decodes to the empty message (DESIGN CHOICE, log entry 16). -/
def intToMessage : Nat → Nat → List Byte
  | 0, _ => []
  | len + 1, m => BitVec.ofNat 8 (m / 256 ^ len) :: intToMessage len m

/-- A point register's value as the host reads it: PTINF, then the coordinates by PSTORE (R259, R260). -/
def readPoint (ps : PIdx) (rdx rdy : XIdx) : HostM Point := do
  let inf ← readInf ps
  let _ ← runCmd (.pstore rdx rdy ps)
  let x ← readX rdx
  let y ← readX rdy
  pure (if inf then .inf else .aff x y)

/-- `ecdhGenerateKeyPair()` (R259), with the domain set up (`loadDomain`). -/
def ecdhGenerateKeyPair (o : HostOracle) (ps : HostParams) (g : GroupParams) : HostM (Int × Point) := do
  let d ← hostRandom o 1 (g.n - 1)
  loadX 0 d
  let _ ← runCmd (smulInstr ps.variant 1 0 0)
  let q ← readPoint 1 1 2
  pure (d, q)

/-- `computeSharedSecret(d_self, Q_peer)` (R260), the peer's point given by its coordinates. -/
def computeSharedSecret (ps : HostParams) (d qx qy : Int) : HostM Point := do
  loadX 1 qx
  loadX 2 qy
  let code ← runCmd (.pload 2 1 2)
  if code == Code.invalidCurvePoint.number then throw (.kind .invalidCurvePoint)
  loadX 0 d
  let _ ← runCmd (smulInstr ps.variant 3 0 2)
  readPoint 3 3 4

/-- The session key of a shared point (R250, R260): the key-derivation collaborator's answer on `S.x`. For `S = Inf`, of which the
source says nothing, it fails (log entry 12). -/
def sessionKey (o : HostOracle) : Point → HostM (Vector Byte o.keyBytes)
  | .inf => throw .noSharedX
  | .aff x _ => pure (o.kdf x)

/-- `Nonce(d, h, attempt)` (R261): the oracle's answer, brought into `[1, n - 1]`. -/
def nonceOf (o : HostOracle) (d h n : Int) (attempt : Nat) : Int := 1 + (o.nonce d h attempt - 1) % (n - 1)

/-- The redraw loop of R261, from attempt number `attempt`, with `fuel` attempts left. -/
def signLoop (o : HostOracle) (ps : HostParams) (h d n : Int) : Nat → Nat → HostM Signature
  | 0, _ => throw .attemptCap
  | fuel + 1, attempt => do
    loadX 0 (nonceOf o d h n attempt)
    let _ ← runCmd (smulInstr ps.variant 1 0 0)
    let _ ← runCmd (.pstore 1 2 1)
    let _ ← runCmd (.modadd 3 1 14 15)
    let r ← readX 3
    if r == 0 then signLoop o ps h d n fuel (attempt + 1)
    else
      let _ ← runCmd (.modinv 4 0 15)
      loadX 5 d
      loadX 6 h
      let _ ← runCmd (.modmul 7 3 5 15)
      let _ ← runCmd (.modadd 7 6 7 15)
      let _ ← runCmd (.modmul 8 4 7 15)
      let s ← readX 8
      if s == 0 then signLoop o ps h d n fuel (attempt + 1) else pure { r := r, s := s }

/-- `ecdsaSign(message, d)` (R261), with the domain set up (`loadDomain`). -/
def ecdsaSign (o : HostOracle) (ps : HostParams) (g : GroupParams) (message : List Byte) (d : Int) : HostM Signature :=
  signLoop o ps (o.hash message) d g.n ps.attemptCap 1

/-- `ecdsaVerify(message, (r, s), Q)` (R262), with the domain set up (`loadDomain`): accept or reject. -/
def ecdsaVerify (o : HostOracle) (ps : HostParams) (g : GroupParams) (message : List Byte) (sig : Signature)
    (qx qy : Int) : HostM Bool := do
  if ¬ sig.inRange g.n then throw (.kind .invalidSignature)
  loadX 1 qx
  loadX 2 qy
  let code ← runCmd (.pload 1 1 2)
  if code != Code.ok.number then return false
  loadX 3 sig.s
  let _ ← runCmd (.modinv 4 3 15)
  loadX 5 (o.hash message)
  let _ ← runCmd (.modmul 6 5 4 15)
  loadX 7 sig.r
  let _ ← runCmd (.modmul 8 7 4 15)
  let _ ← runCmd (smulInstr ps.variant 2 6 0)
  let _ ← runCmd (smulInstr ps.variant 3 8 1)
  let _ ← runCmd (.padd 4 2 3)
  let inf ← readInf 4
  if inf then return false
  let _ ← runCmd (.pstore 9 10 4)
  let _ ← runCmd (.modadd 11 9 14 15)
  let v ← readX 11
  return v == sig.r

end Sys2Proof.Machine
end

