-- ==== Sys2Proof/Safety.lean ====
section
/-! DEFINITION. What claims are stated in: the invariants of the state, what a command that completes or raises may change,
and the legal words. -/

namespace Sys2Proof.Machine

/-- The coordinates of an affine point are reduced mod `crv.p` (R26, the range part). -/
def Point.Reduced (c : Curve) : Point → Prop
  | .inf => True
  | .aff x y => 0 ≤ x ∧ x < c.p ∧ 0 ≤ y ∧ y < c.p

/-- The point is `Inf` or a reduced point of the curve (R26, R180). -/
def Point.On (c : Curve) : Point → Prop
  | .inf => True
  | .aff x y => onCurve c x y = true

/-- The invariant every step keeps: the parameters are legal (R10), registers and context have their widths (R20, R25), a bound
curve has passed CURVE's checks and without one the context is zero and every point is `Inf` (R25, R26, R181, R184), point
coordinates are reduced (R26), a pending word is in CMD with DONE and CODE clear (R40, R46), no `host` code stands in
STATUS (R302), and FATAL comes from point arithmetic, hence on a bound curve (R281). -/
structure State.Inv (s : State) : Prop where
  legal : s.cfg.legal
  regLength : ∀ i : XIdx, (s.x[i.val]).length = s.cfg.limbs
  contextFits : fits s.cfg s.crv.a ∧ fits s.cfg s.crv.b ∧ fits s.cfg s.crv.p
  bound : s.cv = true → 3 < s.crv.p ∧ disc s.crv.a s.crv.b s.crv.p ≠ 0
  unbound : s.cv = false → s.crv = { a := 0, b := 0, p := 0 } ∧ ∀ i, s.point i = .inf
  reduced : ∀ i, (s.point i).Reduced s.crv
  pending : ∀ w, s.pend = some w → s.cmd = w ∧ s.done = false ∧ s.code = .ok
  noHostCode : s.code.isHost = false
  fatalBound : s.fatal = true → s.cv = true

/-- The host's duty of R324 is kept: `crv.p` is a prime. -/
def State.PrimeField (s : State) : Prop := 0 ≤ s.crv.p ∧ Nat.Prime s.crv.p.toNat

/-- R26 in full, under the host's duty: every point register holds `Inf` or a point of the bound curve. -/
def State.PointsOnCurve (s : State) : Prop := s.PrimeField → ∀ i, (s.point i).On s.crv

/-- What no command changes, however it ends: the parameters, CMD, CTRL, XSEL, WERR, the reset input, and the outside world
but for the random source's answers. -/
structure State.SameControl (s t : State) : Prop where
  cfg : t.cfg = s.cfg
  cmd : t.cmd = s.cmd
  ie : t.ie = s.ie
  xselIdx : t.xselIdx = s.xselIdx
  xselLimb : t.xselLimb = s.xselLimb
  werr : t.werr = s.werr
  resetLine : t.resetLine = s.resetLine
  inputs : t.env.inputs = s.env.inputs
  response : t.env.response = s.env.response

/-- The end of every command (R14, R45): BUSY clear, DONE set, the code. -/
structure State.EndedWith (t : State) (c : Code) : Prop where
  idle : t.pend = none
  done : t.done = true
  code : t.code = c

/-- `t` is `s` after a command that completed OK and wrote at most the integer registers `xs` and the point registers `ps`,
having consumed `k` answers of the random source: its frame. -/
structure State.CompletedOk (s t : State) (xs : List XIdx) (ps : List PIdx) (k : Nat) : Prop where
  ended : t.EndedWith .ok
  control : s.SameControl t
  fatal : t.fatal = s.fatal
  context : t.crv = s.crv ∧ t.cv = s.cv
  xregs : ∀ i : XIdx, i ∉ xs → t.x[i.val] = s.x[i.val]
  points : ∀ i : PIdx, i ∉ ps → t.point i = s.point i
  draws : t.env.draws = s.env.draws.drop k

/-- `t` is `s` after a command that ended with the code `c` and wrote nothing (R280, R288). -/
structure State.WroteNothing (s t : State) (c : Code) : Prop where
  ended : t.EndedWith c
  control : s.SameControl t
  context : t.crv = s.crv ∧ t.cv = s.cv
  xregs : t.x = s.x
  points : t.pt = s.pt
  draws : t.env.draws = s.env.draws

/-- The command `i` ends with the code `c`, having written nothing and left FATAL as it was (R14, R288). -/
def Raises (i : Instr) (s : State) (c : Code) : Prop :=
  ∃ t, exec i s = .next t ∧ s.WroteNothing t c ∧ t.fatal = s.fatal

/-- The two states have the same parameters and the same contents of what a command reads or writes: the registers, the curve
context and FATAL (R326). -/
structure State.SameContents (s u : State) : Prop where
  cfg : u.cfg = s.cfg
  x : u.x = s.x
  pt : u.pt = s.pt
  crv : u.crv = s.crv
  cv : u.cv = s.cv
  fatal : u.fatal = s.fatal

/-- The command `i` ends in `fatal DivisionByZero`: code 0x07, nothing written, FATAL set (R14, R290). -/
def EndsFatally (i : Instr) (s : State) : Prop :=
  ∃ t, exec i s = .next t ∧ s.WroteNothing t .divisionByZero ∧ t.fatal = true ∧ t.code.number = 0x07

/-- The premises of a command's own rule: the state's invariant, and FATAL clear (R282). -/
def State.Ready (s : State) : Prop := s.Inv ∧ s.fatal = false

/-- The premises of a curve command's own rule: a curve is bound as well (R285). -/
def State.CurveReady (s : State) : Prop := s.Inv ∧ s.fatal = false ∧ s.cv = true

/-- `s` with one bus access taken off the inputs and answered by `r`, nothing else changed. -/
def State.answered (s : State) (rest : List Input) (r : Response) : State :=
  { s with env := { s.env with inputs := rest, response := r } }

/-- The NTE is out of reset and its next input is a bus access or other input `i`, with `rest` to follow. -/
def State.Facing (s : State) (i : Input) (rest : List Input) : Prop :=
  s.resetLine = false ∧ s.env.inputs = i :: rest

/-- The host may start a procedure: the invariant holds, FATAL is clear, no command is pending, and the reset input is
released. -/
def State.HostReady (s : State) : Prop := s.Ready ∧ s.pend = none ∧ s.resetLine = false

/-- `R` is the sum of two points by the chord and tangent rule (R202, R203), its slope given by the congruence it solves
rather than by a computation. -/
def PointSum (c : Curve) : Point → Point → Point → Prop
  | .inf, Q, R => R = Q
  | .aff x1 y1, .inf, R => R = .aff x1 y1
  | .aff x1 y1, .aff x2 y2, R =>
    if x1 = x2 ∧ (y1 ≠ y2 ∨ y1 = 0) then R = .inf
    else
      ∃ lam,
        (if x1 = x2 then (lam * (2 * y1) - (3 * x1 * x1 + c.a)) % c.p = 0
          else (lam * (x2 - x1) - (y2 - y1)) % c.p = 0) ∧
        R = .aff ((lam * lam - x1 - x2) % c.p) ((lam * (x1 - (lam * lam - x1 - x2) % c.p) - y1) % c.p)

/-- The sum of two points needs a slope whose divisor has no inverse mod `crv.p` (R200, R202, R203): the difference of the
abscissas, or `2*y` for equal points with `y ≠ 0`. -/
def SlopeUndefined (c : Curve) : Point → Point → Prop
  | .inf, _ => False
  | .aff _ _, .inf => False
  | .aff x1 y1, .aff x2 y2 =>
    (x1 ≠ x2 ∧ Int.gcd (x2 - x1) c.p ≠ 1) ∨ (x1 = x2 ∧ y1 = y2 ∧ y1 ≠ 0 ∧ Int.gcd (2 * y1) c.p ≠ 1)

/-- The accumulators `R` and `A` of SMUL's loop before iteration `i` (R221), counted from 0; `none` once a sum has ended
fatally. -/
def smulAccumulators (c : Curve) (P : Point) (k : Nat) : Nat → Option (Point × Point)
  | 0 => some (.inf, P)
  | i + 1 =>
    (smulAccumulators c P k i).bind fun acc =>
      (if k.testBit i then padd c acc.1 acc.2 else some acc.1).bind fun R =>
        (pdbl c acc.2).map fun A => (R, A)

/-- The accumulators `Q0` and `Q1` of SMULCT's ladder after its first `i` iterations (R222), which are those for the bits
`bitlen(k) - 1` down to `bitlen(k) - i`; `none` once a sum has ended fatally. -/
def smulctAccumulators (c : Curve) (P : Point) (k : Nat) : Nat → Option (Point × Point)
  | 0 => some (.inf, P)
  | i + 1 =>
    (smulctAccumulators c P k i).bind fun acc =>
      (padd c acc.1 acc.2).bind fun S =>
        if k.testBit (bitlen k - (i + 1)) then (pdbl c acc.2).map fun D => (S, D)
        else (pdbl c acc.1).map fun D => (D, S)

/-- The outcome `pass` of R150 for a witness `a` and `n - 1 = 2^r * d`, in closed form. -/
def WitnessPasses (n : Int) (r d : Nat) (a : Int) : Prop :=
  a ^ d % n = 1 ∨ ∃ j < r, a ^ (2 ^ j * d) % n = n - 1

/-- A command that looks at the curve context first (R285). -/
def needsCurve : Instr → Bool
  | .nop => false
  | .clear => false
  | .mov _ _ => false
  | .gcd _ _ _ => false
  | .xgcd _ _ _ _ _ => false
  | .modinv _ _ _ => false
  | .modpow _ _ _ _ => false
  | .modpowct _ _ _ _ => false
  | .totient _ _ _ => false
  | .mrtest _ _ _ => false
  | .modadd _ _ _ _ => false
  | .modsub _ _ _ _ => false
  | .modmul _ _ _ _ => false
  | .modsqrt _ _ _ => false
  | .curve _ _ _ => false
  | .oncurve _ _ _ => true
  | .pload _ _ _ => true
  | .pinf _ => true
  | .pstore _ _ _ => true
  | .pmov _ _ => true
  | .pneg _ _ => true
  | .padd _ _ _ => true
  | .pdbl _ _ => true
  | .smul _ _ _ => true
  | .smulct _ _ _ => true
  | .porder _ _ _ => true

/-- R287: the codes a command can end with besides OK, E_FATAL and E_ILLEGAL. -/
def ownCodes : Instr → List Code
  | .nop => []
  | .clear => []
  | .mov _ _ => []
  | .gcd _ _ _ => [.eOverflow]
  | .xgcd _ _ _ _ _ => [.eRange]
  | .modinv _ _ _ => [.eRange, .noModularInverse]
  | .modpow _ _ _ _ => [.eRange]
  | .modpowct _ _ _ _ => [.eRange]
  | .totient _ _ _ => [.eOverflow]
  | .mrtest _ _ _ => []
  | .modadd _ _ _ _ => [.eRange]
  | .modsub _ _ _ _ => [.eRange]
  | .modmul _ _ _ _ => [.eRange]
  | .modsqrt _ _ _ => [.eRange, .eUnsupported, .sNoRoot]
  | .curve _ _ _ => [.eRange, .singularCurve]
  | .oncurve _ _ _ => [.eNoCurve]
  | .pload _ _ _ => [.eNoCurve, .invalidCurvePoint]
  | .pinf _ => [.eNoCurve]
  | .pstore _ _ _ => [.eNoCurve]
  | .pmov _ _ => [.eNoCurve]
  | .pneg _ _ => [.eNoCurve]
  | .padd _ _ _ => [.eNoCurve, .divisionByZero]
  | .pdbl _ _ => [.eNoCurve, .divisionByZero]
  | .smul _ _ _ => [.eNoCurve, .eRange, .divisionByZero]
  | .smulct _ _ _ => [.eNoCurve, .eRange, .divisionByZero]
  | .porder _ _ _ => [.eNoCurve, .eRange, .sUnknown, .divisionByZero]

/-- `k` times the point `P` by repeated addition, as PORDER forms it (R223): `none` where an addition ends fatally. -/
def pointMultiple (c : Curve) (P : Point) : Nat → Option Point
  | 0 => some .inf
  | 1 => some P
  | k + 2 => (pointMultiple c P (k + 1)).bind fun Q => padd c Q P

end Sys2Proof.Machine
end

