-- ==== Sys2Proof/Certificates/Slice0/Obligations.lean ====
section
/-! DEFINITION. The statements for the provers, in the order of OBLIGATIONS.json: encoding, the step, the invariants, the
shared checks, the commands, the window and reset, the host's programs. Where a statement is about a command,
`State.CompletedOk` is its frame and `Raises` says that it wrote nothing. -/

open Sys2Proof Sys2Proof.Machine

/-! ### Encoding -/

/-- R91, R92, R95, R101: words written out from the table decode to the commands they stand for. -/
def Obligations.SampleWordsDecode : Prop :=
  decode 0x00000000 = .ok .nop ∧ decode 0x02130000 = .ok (.mov 1 3) ∧ decode 0x13301200 = .ok (.modpow 3 0 1 2) ∧
  decode 0x20100005 = .ok (.mrtest 1 0 5) ∧ decode 0x30012300 = .ok (.modadd 0 1 2 3) ∧
  decode 0x42034000 = .ok (.pload 0 3 4) ∧ decode 0x47201000 = .ok (.padd 2 0 1) ∧
  decode 0x4B201000 = .ok (.porder 2 0 1) ∧ decode 0x03000000 = .error (.unknownOpcode 3) ∧
  decode 0x00000001 = .error .nonzeroUnused ∧ decode 0x47800000 = .error (.pointIndex 8)

/-- R101: decoding is the inverse of assembling, for every command and every operand. -/
def Obligations.DecodeOfEncode : Prop := ∀ i : Instr, decode (encode i) = .ok i

/-- R98, R101: a legal word is the encoding of the command it decodes to, so no bit of it is ignored. -/
def Obligations.EncodeOfDecode : Prop := ∀ (w : Word) (i : Instr), decode w = .ok i → encode i = w

/-- R95, R96: the decoder refuses exactly the words that match no row of the opcode table under that row's mask. -/
def Obligations.RefusedWordsMatchNoRow : Prop :=
  ∀ w : Word, (∃ e, decode w = .error e) ↔ ∀ o ∈ Opcode.all, o.accepts w = false

/-! ### The step -/

/-- R45, R69: with a legal word pending, the engine's turn is that command's `exec`, whether the turn is an input or no input
is known to come; a word placed by `withFetchWord` is run by the very next step; an idle NTE does nothing. -/
def Obligations.StepRunsDecodedCommand : Prop :=
  (∀ (s : State) (c : Word) (i : Instr), s.resetLine = false → s.pend = some c → decode c = .ok i →
    (s.env.inputs = [] → step s = exec i s) ∧
    (∀ rest, s.env.inputs = .engine :: rest → step s = exec i (s.popInput rest))) ∧
  (∀ (s : State) (w : Word) (i : Instr), decode w = .ok i →
    step (s.withFetchWord 32 w.toNat) =
      exec i { s with cmd := w, pend := some w, done := false, code := .ok, resetLine := false }) ∧
  (∀ s : State, s.pend = none → s.env.inputs = [] → step s = .next s)

/-- R331, R40: a state with BUSY = 1 has a successor with BUSY = 0 and DONE = 1, whatever the pending word is. -/
def Obligations.PendingCommandCompletes : Prop :=
  ∀ s : State, s.busy = true → s.resetLine = false → s.env.inputs = [] →
    ∃ t, step s = .next t ∧ t.busy = false ∧ t.done = true

/-- No step stops the machine but a bus access outside the window (R60, R61; log entry 7). -/
def Obligations.OnlyForeignAddressesStop : Prop :=
  ∀ s : State,
    (∃ t, step s = .next t) ∨
    (step s = .fault .outsideWindow ∧
      ∃ addr rest, ((∃ n, s.env.inputs = .read addr n :: rest) ∨ ∃ l, s.env.inputs = .write addr l :: rest) ∧
        ¬ (s.cfg.base ≤ addr ∧ addr < s.cfg.base + 4096))

/-! ### Invariants -/

/-- R50: the invariant holds after reset, for all legal parameters. -/
def Obligations.ResetHasInvariant : Prop :=
  (∀ (c : Config) (e : Env), c.legal →
    (State.resetFor c e).Inv ∧ (State.resetFor c e).PointsOnCurve) ∧
  State.reset.Inv

/-- Every step keeps the invariant (R10, R20, R25, R26, R40, R181, R302). -/
def Obligations.StepKeepsInvariant : Prop := ∀ s t : State, s.Inv → step s = .next t → t.Inv

/-- R26: with a prime field, every step keeps every point register on the bound curve. -/
def Obligations.StepKeepsPointsOnCurve : Prop :=
  ∀ s t : State, s.Inv → s.PointsOnCurve → step s = .next t → t.PointsOnCurve

/-! ### The shared checks and ends -/

/-- R282: while FATAL is 1 every command, legal word or not, ends with E_FATAL and writes nothing. -/
def Obligations.FatalRefusesEveryWord : Prop :=
  ∀ (s : State) (c : Word), s.fatal = true → s.pend = some c → s.resetLine = false → s.env.inputs = [] →
    ∃ t, step s = .next t ∧ s.WroteNothing t .eFatal ∧ t.fatal = true

/-- R284: with FATAL clear, a word that matches no row, or that names one register in two destinations, ends with E_ILLEGAL,
whatever the registers hold. -/
def Obligations.IllegalWordRaises : Prop :=
  ∀ (s : State) (c : Word), s.fatal = false → s.pend = some c → s.resetLine = false → s.env.inputs = [] →
    ((∀ o ∈ Opcode.all, o.accepts c = false) ∨ ∃ i, decode c = .ok i ∧ i.wellFormed = false) →
    ∃ t, step s = .next t ∧ s.WroteNothing t .eIllegal ∧ t.fatal = false

/-- R285: with `CV = 0` every curve command ends with E_NOCURVE; the other commands do not look at `CV`, which changes nothing
of what they leave but `CV` itself. (That it does not change an unspecified trace either is log entry 4.) -/
def Obligations.CurveCheck : Prop :=
  (∀ (i : Instr) (s : State), s.fatal = false → s.cv = false → needsCurve i = true → i.wellFormed = true →
    Raises i s .eNoCurve) ∧
  (∀ (i : Instr) (s : State) (b : Bool), needsCurve i = false →
    ∃ t t', exec i s = .next t ∧ exec i { s with cv := b } = .next t' ∧ t.code ≠ .eNoCurve ∧
      t' = { t with cv := t'.cv })

/-- R280, R288: a command that ends with a code other than OK, whatever the word, leaves the state as it was before it was
issued, but for STATUS (FATAL for DivisionByZero only) and CMD. -/
def Obligations.FailedCommandWritesNothing : Prop :=
  ∀ (s t : State) (w : Word), s.busy = false → s.resetLine = false → s.env.inputs = [] →
    step { s with cmd := w, pend := some w, done := false, code := .ok } = .next t → t.code ≠ .ok →
    t.EndedWith t.code ∧ t.cfg = s.cfg ∧ t.cmd = w ∧ t.ie = s.ie ∧ t.xselIdx = s.xselIdx ∧ t.xselLimb = s.xselLimb ∧
    t.werr = s.werr ∧ t.x = s.x ∧ t.pt = s.pt ∧ t.crv = s.crv ∧ t.cv = s.cv ∧
    t.fatal = (s.fatal || t.code == .divisionByZero)

/-- R16, R281, R287: the codes each command can end with. -/
def Obligations.CodesPerCommand : Prop :=
  ∀ (i : Instr) (s t : State), s.Inv → exec i s = .next t →
    t.code = .ok ∨ t.code = .eFatal ∨ (t.code = .eIllegal ∧ i.wellFormed = false) ∨ t.code ∈ ownCodes i

/-- R207: with a prime `crv.p` no command ends in fatal DivisionByZero; with `p = 25` the rule's example does. -/
def Obligations.PrimeFieldNeverFatal : Prop :=
  (∀ (i : Instr) (s t : State), s.Inv → s.PrimeField → exec i s = .next t → t.code ≠ .divisionByZero) ∧
  disc 0 1 25 ≠ 0 ∧ onCurve { a := 0, b := 1, p := 25 } 0 1 = true ∧ onCurve { a := 0, b := 1, p := 25 } 5 1 = true ∧
  padd { a := 0, b := 1, p := 25 } (.aff 0 1) (.aff 5 1) = none

/-- R200, R290: PADD, PDBL, SMUL, SMULCT and PORDER end with code 0x07, write nothing and set FATAL when a sum they form has a
slope divisor without an inverse mod `crv.p`. PADD and PDBL form one sum, SMUL and SMULCT those of their accumulators, PORDER
the multiples of its point until one is `Inf`. A sum has no value exactly when its slope divisor has no inverse. -/
def Obligations.DivisionByZeroIsFatal : Prop :=
  ∀ (s : State) (pd ps ps2 : PIdx) (rk rd : XIdx), s.CurveReady →
    (∀ P Q : Point, padd s.crv P Q = none ↔ SlopeUndefined s.crv P Q) ∧
    (∀ P : Point, pdbl s.crv P = none ↔ SlopeUndefined s.crv P P) ∧
    (SlopeUndefined s.crv (s.point ps) (s.point ps2) → EndsFatally (.padd pd ps ps2) s) ∧
    (SlopeUndefined s.crv (s.point ps) (s.point ps) → EndsFatally (.pdbl pd ps) s) ∧
    (0 ≤ s.xval rk →
      smulAccumulators s.crv (s.point ps) (s.xval rk).toNat (bitlen (s.xval rk).toNat) = none →
      EndsFatally (.smul pd rk ps) s) ∧
    (0 ≤ s.xval rk →
      smulctAccumulators s.crv (s.point ps) (s.xval rk).toNat (bitlen (s.xval rk).toNat) = none →
      EndsFatally (.smulct pd rk ps) s) ∧
    (∀ k : Nat, (k : Int) ≤ s.xval rk → pointMultiple s.crv (s.point ps) k = none →
      (∀ j, 1 ≤ j → j < k → pointMultiple s.crv (s.point ps) j ≠ some .inf) →
      EndsFatally (.porder rd ps rk) s)

/-- R290, R320, R322: only a soft reset or the release of the reset input clears FATAL. -/
def Obligations.FatalClearedOnlyByReset : Prop :=
  ∀ s t : State, s.fatal = true → step s = .next t → t.fatal = false →
    (∃ lanes rest, s.Facing (.write (s.cfg.base + 0x10) lanes) rest ∧ lanes.length = 4 ∧ s.busy = false ∧
      (wordOf lanes).getLsbD 1 = true) ∨
    (∃ rest, s.resetLine = true ∧ s.env.inputs = .resetLine false :: rest)

/-! ### System commands -/

/-- R242: CLEAR zeroes every integer register and the curve context, sets every point register to `Inf`, and leaves FATAL,
WERR, CTRL, XSEL and CMD; with `FATAL = 1` it ends with E_FATAL and nothing is cleared. -/
def Obligations.ClearResult : Prop :=
  ∀ s : State, s.Inv →
    (s.fatal = true → Raises .clear s .eFatal) ∧
    (s.fatal = false →
      ∃ t, exec .clear s = .next t ∧ t.EndedWith .ok ∧ s.SameControl t ∧ t.fatal = s.fatal ∧
        (∀ i : XIdx, t.x[i.val] = List.replicate s.cfg.limbs 0) ∧ (∀ i, t.point i = .inf) ∧
        t.crv = { a := 0, b := 0, p := 0 } ∧ t.cv = false ∧ t.env.draws = s.env.draws)

/-- R240, R241: NOP changes nothing but STATUS; MOV copies an integer register; with `FATAL = 1` they end with E_FATAL. -/
def Obligations.NopMovResult : Prop :=
  ∀ s : State, s.Inv →
    (s.fatal = true → Raises .nop s .eFatal ∧ ∀ rd rs : XIdx, Raises (.mov rd rs) s .eFatal) ∧
    (s.fatal = false →
      (∃ t, exec .nop s = .next t ∧ s.CompletedOk t [] [] 0) ∧
      (∀ rd rs : XIdx, ∃ t, exec (.mov rd rs) s = .next t ∧ s.CompletedOk t [rd] [] 0 ∧ t.xval rd = s.xval rs))

/-! ### Number theory -/

/-- R121: GCD writes the greatest common divisor of the absolute values; E_OVERFLOW exactly when it is `2^(W-1)`, that is when
one operand is `-2^(W-1)` and the other is 0 or `-2^(W-1)`. -/
def Obligations.GcdResult : Prop :=
  ∀ (s : State) (rd ra rb : XIdx), s.Ready →
    let low : Int := -(2 ^ (32 * s.cfg.limbs - 1))
    let overflows :=
      (s.xval ra = low ∧ (s.xval rb = 0 ∨ s.xval rb = low)) ∨ (s.xval ra = 0 ∧ s.xval rb = low)
    (¬ overflows →
      ∃ t, exec (.gcd rd ra rb) s = .next t ∧ s.CompletedOk t [rd] [] 0 ∧
        t.xval rd = Int.gcd (s.xval ra) (s.xval rb)) ∧
    (overflows → Raises (.gcd rd ra rb) s .eOverflow)

/-- R122, R123: XGCD writes the triple of the recursion, which satisfies `a*x + b*y = g`; a negative operand is refused, and
so are duplicate destinations. -/
def Obligations.XgcdResult : Prop :=
  ∀ (s : State) (rg rx ry ra rb : XIdx), s.Ready →
    ((Instr.xgcd rg rx ry ra rb).wellFormed = false → Raises (.xgcd rg rx ry ra rb) s .eIllegal) ∧
    ((Instr.xgcd rg rx ry ra rb).wellFormed = true →
      (s.xval ra < 0 ∨ s.xval rb < 0 → Raises (.xgcd rg rx ry ra rb) s .eRange) ∧
      (0 ≤ s.xval ra → 0 ≤ s.xval rb →
        ∃ t, exec (.xgcd rg rx ry ra rb) s = .next t ∧ s.CompletedOk t [rg, rx, ry] [] 0 ∧
          (t.xval rg, t.xval rx, t.xval ry) =
            (((egcd (s.xval ra).toNat (s.xval rb).toNat).1 : Int), (egcd (s.xval ra).toNat (s.xval rb).toNat).2) ∧
          t.xval rg = Int.gcd (s.xval ra) (s.xval rb) ∧
          s.xval ra * t.xval rx + s.xval rb * t.xval ry = t.xval rg))

/-- R124: MODINV writes the inverse in `[0, n)`; NoModularInverse exactly when `gcd(a, n) ≠ 1`; E_RANGE for `n < 1`. -/
def Obligations.ModinvResult : Prop :=
  ∀ (s : State) (rd ra rn : XIdx), s.Ready →
    (s.xval rn < 1 → Raises (.modinv rd ra rn) s .eRange) ∧
    (1 ≤ s.xval rn → Int.gcd (s.xval ra) (s.xval rn) ≠ 1 → Raises (.modinv rd ra rn) s .noModularInverse) ∧
    (1 ≤ s.xval rn → Int.gcd (s.xval ra) (s.xval rn) = 1 →
      ∃ t, exec (.modinv rd ra rn) s = .next t ∧ s.CompletedOk t [rd] [] 0 ∧
        0 ≤ t.xval rd ∧ t.xval rd < s.xval rn ∧ s.xval ra * t.xval rd % s.xval rn = 1 % s.xval rn)

/-- R126: MODPOW writes `(b^e) mod m`; per exponent bit from bit 0 up its trace has `MUL` if the bit is 1, then `SQR`, and it
is empty for `m = 1` or `e = 0`; E_RANGE for `m < 1` or `e < 0`. -/
def Obligations.ModpowResult : Prop :=
  ∀ (s : State) (rd rb re rm : XIdx), s.Ready →
    (s.xval rm < 1 ∨ s.xval re < 0 → Raises (.modpow rd rb re rm) s .eRange) ∧
    (1 ≤ s.xval rm → 0 ≤ s.xval re →
      ∃ t, exec (.modpow rd rb re rm) s = .next t ∧ s.CompletedOk t [rd] [] 0 ∧
        t.xval rd = s.xval rb ^ (s.xval re).toNat % s.xval rm ∧
        t.trace =
          if s.xval rm = 1 ∨ s.xval re = 0 then []
          else (List.range (bitlen (s.xval re).toNat)).flatMap fun i =>
            if (s.xval re).toNat.testBit i then [.mul, .sqr] else [.sqr])

/-- R127: MODPOWCT writes `(b^e) mod m`, and its trace is `MUL, SQR` repeated `bitlen(e)` times; E_RANGE for `m < 1` or
`e < 0`. -/
def Obligations.ModpowctResult : Prop :=
  ∀ (s : State) (rd rb re rm : XIdx), s.Ready →
    (s.xval rm < 1 ∨ s.xval re < 0 → Raises (.modpowct rd rb re rm) s .eRange) ∧
    (1 ≤ s.xval rm → 0 ≤ s.xval re →
      ∃ t, exec (.modpowct rd rb re rm) s = .next t ∧ s.CompletedOk t [rd] [] 0 ∧
        t.xval rd = s.xval rb ^ (s.xval re).toNat % s.xval rm ∧
        t.trace = (List.replicate (bitlen (s.xval re).toNat) [Event.mul, Event.sqr]).flatten)

/-- R128: MODPOW and MODPOWCT end with the same code and write the same value, for every content of their registers. -/
def Obligations.ExponentiationsAgree : Prop :=
  ∀ (s : State) (rd rb re rm : XIdx),
    ∃ t t', exec (.modpow rd rb re rm) s = .next t ∧ exec (.modpowct rd rb re rm) s = .next t' ∧
      t'.code = t.code ∧ t'.x = t.x

/-- R129: TOTIENT writes the product `(p - 1)(q - 1)` of any operands, or ends with E_OVERFLOW when it does not fit. -/
def Obligations.TotientResult : Prop :=
  ∀ (s : State) (rd rp rq : XIdx), s.Ready →
    let v := (s.xval rp - 1) * (s.xval rq - 1)
    (fits s.cfg v →
      ∃ t, exec (.totient rd rp rq) s = .next t ∧ s.CompletedOk t [rd] [] 0 ∧ t.xval rd = v) ∧
    (¬ fits s.cfg v → Raises (.totient rd rp rq) s .eOverflow)

/-! ### Primality -/

/-- R150, R151: MRTEST's value and draws. Without a draw for `n ≤ 3` and for even `n`; otherwise it writes 1 exactly when the
witness `a` of every round passes, that is `a^d mod n = 1` or `a^(2^j*d) mod n = n - 1` for some `j < r`, and it draws up to
the first that does not; one `DRAW` a witness. The witnesses are the answers of the random source as log entry 3 reads
them. -/
def Obligations.MrtestResult : Prop :=
  ∀ (s : State) (rd rn : XIdx) (imm8 : BitVec 8), s.Ready →
    let n := s.xval rn
    let rounds := if imm8 = 0 then 41 else imm8.toNat
    ∃ t k, exec (.mrtest rd rn imm8) s = .next t ∧ s.CompletedOk t [rd] [] k ∧
      t.trace = List.replicate k Event.draw ∧ (t.xval rd = 0 ∨ t.xval rd = 1) ∧
      (n ≤ 1 → t.xval rd = 0 ∧ k = 0) ∧ (n = 2 ∨ n = 3 → t.xval rd = 1 ∧ k = 0) ∧
      (4 ≤ n → n % 2 = 0 → t.xval rd = 0 ∧ k = 0) ∧
      (5 ≤ n → n % 2 = 1 →
        ∃ r d : Nat, n - 1 = 2 ^ r * (d : Int) ∧ d % 2 = 1 ∧ 1 ≤ r ∧ 1 ≤ k ∧ k ≤ rounds ∧
          (∀ j < k - 1, WitnessPasses n r d (witnessOf n (s.env.answer j))) ∧
          (t.xval rd = 1 → k = rounds ∧ WitnessPasses n r d (witnessOf n (s.env.answer (k - 1)))) ∧
          (t.xval rd = 0 → ¬ WitnessPasses n r d (witnessOf n (s.env.answer (k - 1)))))

/-- R154: if `n` is prime MRTEST writes 1, whatever the random source answers; so if it writes 0 and `n ≥ 2`, `n` is composite. -/
def Obligations.MrtestNeverRejectsPrimes : Prop :=
  ∀ (s t : State) (rd rn : XIdx) (imm8 : BitVec 8), s.Ready → exec (.mrtest rd rn imm8) s = .next t →
    (0 ≤ s.xval rn → Nat.Prime (s.xval rn).toNat → t.xval rd = 1) ∧
    (t.xval rd = 0 → 2 ≤ s.xval rn → ∃ a b : Nat, 1 < a ∧ 1 < b ∧ s.xval rn = (a * b : Nat))

/-- R152: for odd `n ≥ 5` a witness is in `[2, n - 2]` whatever the random source answers, and every value of the range is one.
How an answer becomes a witness is the model's choice (log entry 3). -/
def Obligations.WitnessRange : Prop :=
  ∀ n : Int, 5 ≤ n → n % 2 = 1 →
    (∀ a, 2 ≤ witnessOf n a ∧ witnessOf n a ≤ n - 2) ∧ (∀ a, 2 ≤ a → a ≤ n - 2 → witnessOf n a = a)

/-! ### Prime fields -/

/-- R161, R162, R163: MODADD, MODSUB and MODMUL write the exact sum, difference and product reduced into `[0, m)`, whatever the
signs of the operands; E_RANGE for `m < 1`. -/
def Obligations.ModularArithmeticResult : Prop :=
  ∀ (s : State) (rd ra rb rm : XIdx), s.Ready →
    (s.xval rm < 1 →
      Raises (.modadd rd ra rb rm) s .eRange ∧ Raises (.modsub rd ra rb rm) s .eRange ∧
      Raises (.modmul rd ra rb rm) s .eRange) ∧
    (1 ≤ s.xval rm →
      (∃ t, exec (.modadd rd ra rb rm) s = .next t ∧ s.CompletedOk t [rd] [] 0 ∧
        t.xval rd = (s.xval ra + s.xval rb) % s.xval rm) ∧
      (∃ t, exec (.modsub rd ra rb rm) s = .next t ∧ s.CompletedOk t [rd] [] 0 ∧
        t.xval rd = (s.xval ra - s.xval rb) % s.xval rm) ∧
      (∃ t, exec (.modmul rd ra rb rm) s = .next t ∧ s.CompletedOk t [rd] [] 0 ∧
        t.xval rd = s.xval ra * s.xval rb % s.xval rm))

/-- R164: MODSQRT's checks in order, and its closed form `a^((p+1)/4) mod p`. -/
def Obligations.ModsqrtResult : Prop :=
  ∀ (s : State) (rd ra rp : XIdx), s.Ready →
    let a := s.xval ra
    let p := s.xval rp
    (p < 1 → Raises (.modsqrt rd ra rp) s .eRange) ∧
    (1 ≤ p → p % 4 ≠ 3 → Raises (.modsqrt rd ra rp) s .eUnsupported) ∧
    (1 ≤ p → p % 4 = 3 → a ^ ((p - 1) / 2).toNat % p ≠ 1 → Raises (.modsqrt rd ra rp) s .sNoRoot) ∧
    (1 ≤ p → p % 4 = 3 → a ^ ((p - 1) / 2).toNat % p = 1 →
      ∃ t, exec (.modsqrt rd ra rp) s = .next t ∧ s.CompletedOk t [rd] [] 0 ∧
        t.xval rd = a ^ ((p + 1) / 4).toNat % p)

/-- R164: for a prime modulus `p` with `p mod 4 = 3`, MODSQRT ends OK exactly when `a` is a square mod `p` and not 0 mod `p`, and
then what it writes is a square root of `a`. -/
def Obligations.ModsqrtFindsRoots : Prop :=
  ∀ (s t : State) (rd ra rp : XIdx), s.Ready → 0 ≤ s.xval rp → Nat.Prime (s.xval rp).toNat → s.xval rp % 4 = 3 →
    exec (.modsqrt rd ra rp) s = .next t →
    (t.code = .ok ↔ s.xval ra % s.xval rp ≠ 0 ∧ ∃ r : Int, (r * r - s.xval ra) % s.xval rp = 0) ∧
    (t.code = .ok → (t.xval rd * t.xval rd - s.xval ra) % s.xval rp = 0)

/-! ### Curve context and point moves -/

/-- R181: CURVE checks `p > 3`, then the discriminant; it binds the curve as given and sets every point register to `Inf`. -/
def Obligations.CurveResult : Prop :=
  ∀ (s : State) (ra rb rp : XIdx), s.Ready →
    let a := s.xval ra
    let b := s.xval rb
    let p := s.xval rp
    (p ≤ 3 → Raises (.curve ra rb rp) s .eRange) ∧
    (3 < p → (4 * a * a * a + 27 * b * b) % p = 0 → Raises (.curve ra rb rp) s .singularCurve) ∧
    (3 < p → (4 * a * a * a + 27 * b * b) % p ≠ 0 →
      ∃ t, exec (.curve ra rb rp) s = .next t ∧ t.EndedWith .ok ∧ s.SameControl t ∧ t.fatal = s.fatal ∧ t.x = s.x ∧
        t.crv = { a := a, b := b, p := p } ∧ t.cv = true ∧ (∀ i, t.point i = .inf) ∧ ptinfWord t = 0xFF ∧
        t.env.draws = s.env.draws)

/-- R180, R182: on a bound curve ONCURVE writes 1 for reduced coordinates that satisfy the congruence, else 0; without one it
ends with E_NOCURVE. -/
def Obligations.OncurveResult : Prop :=
  ∀ (s : State) (rd rx ry : XIdx), s.Ready →
    let x := s.xval rx
    let y := s.xval ry
    (s.cv = false → Raises (.oncurve rd rx ry) s .eNoCurve) ∧
    (s.cv = true →
      ∃ t, exec (.oncurve rd rx ry) s = .next t ∧ s.CompletedOk t [rd] [] 0 ∧
        t.xval rd =
          if 0 ≤ x ∧ x < s.crv.p ∧ 0 ≤ y ∧ y < s.crv.p ∧
              (y * y - (x * x * x + s.crv.a * x + s.crv.b)) % s.crv.p = 0
          then 1 else 0)

/-- R183: PLOAD writes the affine point when the pair is on the curve, and PTINF's bit becomes 0; else InvalidCurvePoint;
E_NOCURVE without a curve. -/
def Obligations.PloadResult : Prop :=
  ∀ (s : State) (pd : PIdx) (rx ry : XIdx), s.Ready →
    (s.cv = false → Raises (.pload pd rx ry) s .eNoCurve) ∧
    (s.cv = true → onCurve s.crv (s.xval rx) (s.xval ry) = true →
      ∃ t, exec (.pload pd rx ry) s = .next t ∧ s.CompletedOk t [] [pd] 0 ∧
        t.point pd = .aff (s.xval rx) (s.xval ry) ∧ (ptinfWord t).getLsbD pd.val = false) ∧
    (s.cv = true → onCurve s.crv (s.xval rx) (s.xval ry) = false → Raises (.pload pd rx ry) s .invalidCurvePoint)

/-- R184, R186: PINF writes `Inf`, PMOV copies a point register; E_NOCURVE without a curve, when every point register is `Inf`
already. -/
def Obligations.PointMoveResult : Prop :=
  ∀ (s : State) (pd ps : PIdx), s.Ready →
    (s.cv = false → Raises (.pinf pd) s .eNoCurve ∧ Raises (.pmov pd ps) s .eNoCurve ∧ ∀ i, s.point i = .inf) ∧
    (s.cv = true →
      (∃ t, exec (.pinf pd) s = .next t ∧ s.CompletedOk t [] [pd] 0 ∧ t.point pd = .inf) ∧
      (∃ t, exec (.pmov pd ps) s = .next t ∧ s.CompletedOk t [] [pd] 0 ∧ t.point pd = s.point ps))

/-- R185: PSTORE writes the coordinates, `(0, 0)` for `Inf`; equal destinations are illegal; E_NOCURVE without a curve. -/
def Obligations.PstoreResult : Prop :=
  ∀ (s : State) (rdx rdy : XIdx) (ps : PIdx), s.Ready →
    (rdx = rdy → Raises (.pstore rdx rdy ps) s .eIllegal) ∧
    (rdx ≠ rdy → s.cv = false → Raises (.pstore rdx rdy ps) s .eNoCurve) ∧
    (rdx ≠ rdy → s.cv = true →
      ∃ t, exec (.pstore rdx rdy ps) s = .next t ∧ s.CompletedOk t [rdx, rdy] [] 0 ∧
        (s.point ps = .inf → t.xval rdx = 0 ∧ t.xval rdy = 0) ∧
        (∀ x y, s.point ps = .aff x y → t.xval rdx = x ∧ t.xval rdy = y))

/-! ### Point arithmetic -/

/-- R201, R204: PNEG writes `(x, (p - y) mod p)`; `Inf` stays `Inf`; E_NOCURVE without a curve. -/
def Obligations.PnegResult : Prop :=
  ∀ (s : State) (pd ps : PIdx), s.Ready →
    (s.cv = false → Raises (.pneg pd ps) s .eNoCurve) ∧
    (s.cv = true →
      ∃ t, exec (.pneg pd ps) s = .next t ∧ s.CompletedOk t [] [pd] 0 ∧
        (s.point ps = .inf → t.point pd = .inf) ∧
        (∀ x y, s.point ps = .aff x y → t.point pd = .aff x ((s.crv.p - y) % s.crv.p)))

/-- R203, R205, R207: for any `crv.p`, PADD completes and writes the chord-and-tangent sum unless the slope divisor has no inverse,
and on a prime field it always has one. That the trace is the one event `PADD` is the model's reading (log entry 4). -/
def Obligations.PaddResult : Prop :=
  ∀ (s : State) (pd ps1 ps2 : PIdx), s.CurveReady →
    (s.PrimeField → ¬ SlopeUndefined s.crv (s.point ps1) (s.point ps2)) ∧
    (¬ SlopeUndefined s.crv (s.point ps1) (s.point ps2) →
      ∃ t, exec (.padd pd ps1 ps2) s = .next t ∧ s.CompletedOk t [] [pd] 0 ∧ t.trace = [.padd] ∧
        PointSum s.crv (s.point ps1) (s.point ps2) (t.point pd))

/-- R202, R206, R207: for any `crv.p`, PDBL completes and writes the tangent sum of the point with itself unless `2*y` has no
inverse, and on a prime field it always has one. That the trace is the one event `PDBL` is the model's reading (log
entry 4). -/
def Obligations.PdblResult : Prop :=
  ∀ (s : State) (pd ps : PIdx), s.CurveReady →
    (s.PrimeField → ¬ SlopeUndefined s.crv (s.point ps) (s.point ps)) ∧
    (¬ SlopeUndefined s.crv (s.point ps) (s.point ps) →
      ∃ t, exec (.pdbl pd ps) s = .next t ∧ s.CompletedOk t [] [pd] 0 ∧ t.trace = [.pdbl] ∧
        PointSum s.crv (s.point ps) (s.point ps) (t.point pd))

/-- R205: on a prime field PADD does not depend on the order of its operands, and a point plus its negative is `Inf`. -/
def Obligations.PaddGroupLaws : Prop :=
  ∀ (s : State) (pd ps1 ps2 : PIdx), s.CurveReady → s.PrimeField →
    ∃ t t', exec (.padd pd ps1 ps2) s = .next t ∧ exec (.padd pd ps2 ps1) s = .next t' ∧
      t.point pd = t'.point pd ∧
      (s.point ps2 = pneg s.crv (s.point ps1) → t.point pd = .inf)

/-! ### Scalar multiplication -/

/-- R220, R221: for any `crv.p`, SMUL completes for every scalar `k ≥ 0` whose sums have values, as all have on a prime field; it
writes the loop's last `R`, and per scalar bit from bit 0 up its trace has `PADD` if the bit is 1, then `PDBL`. A negative
scalar ends with E_RANGE. -/
def Obligations.SmulTrace : Prop :=
  ∀ (s : State) (pd ps : PIdx) (rk : XIdx), s.CurveReady →
    let k := (s.xval rk).toNat
    (s.xval rk < 0 → Raises (.smul pd rk ps) s .eRange) ∧
    (s.PrimeField → smulAccumulators s.crv (s.point ps) k (bitlen k) ≠ none) ∧
    (0 ≤ s.xval rk → ∀ R A, smulAccumulators s.crv (s.point ps) k (bitlen k) = some (R, A) →
      ∃ t, exec (.smul pd rk ps) s = .next t ∧ s.CompletedOk t [] [pd] 0 ∧ t.point pd = R ∧
        t.trace = (List.range (bitlen k)).flatMap fun i => if k.testBit i then [.padd, .pdbl] else [.pdbl])

/-- R220, R222: for any `crv.p`, SMULCT completes for every scalar `k ≥ 0` whose sums have values, as all have on a prime field; it
writes the ladder's last `Q0`, with the trace `PADD, PDBL` repeated `bitlen(k)` times. A negative scalar ends with
E_RANGE. -/
def Obligations.SmulctTrace : Prop :=
  ∀ (s : State) (pd ps : PIdx) (rk : XIdx), s.CurveReady →
    let k := (s.xval rk).toNat
    (s.xval rk < 0 → Raises (.smulct pd rk ps) s .eRange) ∧
    (s.PrimeField → smulctAccumulators s.crv (s.point ps) k (bitlen k) ≠ none) ∧
    (0 ≤ s.xval rk → ∀ Q0 Q1, smulctAccumulators s.crv (s.point ps) k (bitlen k) = some (Q0, Q1) →
      ∃ t, exec (.smulct pd rk ps) s = .next t ∧ s.CompletedOk t [] [pd] 0 ∧ t.point pd = Q0 ∧
        t.trace = (List.replicate (bitlen k) [Event.padd, Event.pdbl]).flatten)

/-- R221, R222, R224: on a prime field, SMUL and SMULCT both write `k` times the point, the multiple that repeated addition
gives. -/
def Obligations.ScalarMultiplesAgree : Prop :=
  ∀ (s : State) (pd ps : PIdx) (rk : XIdx), s.CurveReady → s.PrimeField → s.PointsOnCurve → 0 ≤ s.xval rk →
    ∃ t t' R, exec (.smul pd rk ps) s = .next t ∧ exec (.smulct pd rk ps) s = .next t' ∧
      pointMultiple s.crv (s.point ps) (s.xval rk).toNat = some R ∧
      t.code = .ok ∧ t'.code = .ok ∧ t.point pd = R ∧ t'.point pd = R

/-- R223: for any `crv.p`, PORDER writes the least `k ≥ 1` with `k * P = Inf` if it is at most the bound, after `k - 1` additions;
past the bound it ends with S_UNKNOWN; a bound below 1 ends with E_RANGE. On a prime field every multiple has a value. -/
def Obligations.PorderResult : Prop :=
  ∀ (s : State) (rd rmax : XIdx) (ps : PIdx), s.CurveReady →
    (s.xval rmax < 1 → Raises (.porder rd ps rmax) s .eRange) ∧
    (s.PrimeField → ∀ k, pointMultiple s.crv (s.point ps) k ≠ none) ∧
    (∀ k : Nat, 1 ≤ k → (k : Int) ≤ s.xval rmax → pointMultiple s.crv (s.point ps) k = some .inf →
      (∀ j, 1 ≤ j → j < k → pointMultiple s.crv (s.point ps) j ≠ some .inf) →
      ∃ t, exec (.porder rd ps rmax) s = .next t ∧ s.CompletedOk t [rd] [] 0 ∧ t.xval rd = k ∧
        t.trace = List.replicate (k - 1) .padd) ∧
    (1 ≤ s.xval rmax → pointMultiple s.crv (s.point ps) (s.xval rmax).toNat ≠ none →
      (∀ k : Nat, 1 ≤ k → (k : Int) ≤ s.xval rmax → pointMultiple s.crv (s.point ps) k ≠ some .inf) →
      Raises (.porder rd ps rmax) s .sUnknown)

/-! ### The register window -/

/-- R46, R69: a word written to CMD while BUSY is 0 becomes the pending command, with DONE and CODE cleared and nothing else
changed, whatever the word and FATAL are. -/
def Obligations.CommandIssue : Prop :=
  ∀ (s : State) (w : Word) (rest : List Input), s.busy = false →
    s.Facing (.write (s.cfg.base + 0x08) (lanesOf w)) rest →
    step s = .next (State.answered { s with cmd := w, pend := some w, done := false, code := .ok } rest .ack)

/-- R41: while BUSY is 1, a write to CMD, CTRL, XSEL or XLIMB changes nothing but WERR; a write to STATUS is not refused, and
no read is. -/
def Obligations.WritesRefusedWhileBusy : Prop :=
  ∀ (s : State) (off : Nat) (w : Word) (rest : List Input), s.busy = true →
    (off ∈ [0x08, 0x10, 0x14, 0x18] → s.Facing (.write (s.cfg.base + off) (lanesOf w)) rest →
      step s = .next (State.answered { s with werr := true } rest .ack)) ∧
    (s.Facing (.write (s.cfg.base + 0x0C) (lanesOf w)) rest →
      ∃ t, step s = .next t ∧ t.werr = (s.werr && !w.getLsbD 3)) ∧
    (off % 4 = 0 → off < 4096 → s.Facing (.read (s.cfg.base + off) 4) rest →
      ∃ t v, step s = .next t ∧ t.env.response = .data (lanesOf v))

/-- R33, R293: a write to STATUS, BUSY or not, clears DONE if bit 1 is 1, clears WERR if bit 3 is 1, and does nothing else. -/
def Obligations.StatusWrite : Prop :=
  ∀ (s : State) (w : Word) (rest : List Input), s.Facing (.write (s.cfg.base + 0x0C) (lanesOf w)) rest →
    step s = .next (State.answered
      { s with done := s.done && !w.getLsbD 1, werr := s.werr && !w.getLsbD 3 } rest .ack)

/-- R33, R281: the fields of STATUS, and the numbers of the completion codes that its bits 15:8 hold. -/
def Obligations.StatusFields : Prop :=
  ∀ s : State,
    (statusWord s).getLsbD 0 = s.pend.isSome ∧ (statusWord s).getLsbD 1 = s.done ∧
    (statusWord s).getLsbD 2 = s.fatal ∧ (statusWord s).getLsbD 3 = s.werr ∧ (statusWord s).getLsbD 4 = s.cv ∧
    (∀ i, 5 ≤ i → i < 8 → (statusWord s).getLsbD i = false) ∧
    (statusWord s).toNat / 2 ^ 8 = s.code.number ∧
    Code.ok.number = 0x00 ∧ Code.messageTooLarge.number = 0x01 ∧ Code.invalidCiphertext.number = 0x02 ∧
    Code.noModularInverse.number = 0x03 ∧ Code.compositeRejected.number = 0x04 ∧ Code.invalidCurvePoint.number = 0x05 ∧
    Code.singularCurve.number = 0x06 ∧ Code.divisionByZero.number = 0x07 ∧ Code.invalidSignature.number = 0x08 ∧
    Code.eIllegal.number = 0x10 ∧ Code.eRange.number = 0x11 ∧ Code.eOverflow.number = 0x12 ∧
    Code.eUnsupported.number = 0x13 ∧ Code.eNoCurve.number = 0x14 ∧ Code.eFatal.number = 0x15 ∧
    Code.sNoRoot.number = 0x16 ∧ Code.sUnknown.number = 0x17

/-- R34, R322: a write to CTRL while BUSY is 0 resets the NTE if SRST is 1, IE and FATAL and WERR included; else IE takes bit 0
and nothing else changes. (While BUSY is 1 it is refused: WritesRefusedWhileBusy.) -/
def Obligations.CtrlWrite : Prop :=
  ∀ (s : State) (w : Word) (rest : List Input), s.busy = false →
    s.Facing (.write (s.cfg.base + 0x10) (lanesOf w)) rest →
    (w.getLsbD 1 = true →
      step s = .next (State.resetFor s.cfg { s.env with inputs := rest, response := .ack })) ∧
    (w.getLsbD 1 = false → step s = .next (State.answered { s with ie := w.getLsbD 0 } rest .ack))

/-- R35, R36: the limb port while BUSY is 0. A write to XSEL stores IDX and LIMB; a write to XLIMB replaces the selected limb,
and no other limb or register; where `LIMB ≥ L` it changes nothing but WERR. -/
def Obligations.LimbPortWrite : Prop :=
  ∀ (s : State) (w : Word) (rest : List Input), s.Inv → s.busy = false →
    (s.Facing (.write (s.cfg.base + 0x14) (lanesOf w)) rest →
      ∃ t, step s = .next (State.answered t rest .ack) ∧ t.xselIdx.val = w.toNat % 16 ∧
        t.xselLimb.toNat = w.toNat / 2 ^ 16 ∧ s = { t with xselIdx := s.xselIdx, xselLimb := s.xselLimb }) ∧
    (s.Facing (.write (s.cfg.base + 0x18) (lanesOf w)) rest → s.cfg.limbs ≤ s.xselLimb.toNat →
      step s = .next (State.answered { s with werr := true } rest .ack)) ∧
    (s.Facing (.write (s.cfg.base + 0x18) (lanesOf w)) rest → s.xselLimb.toNat < s.cfg.limbs →
      ∃ t, step s = .next (State.answered t rest .ack) ∧ s = { t with x := s.x } ∧
        t.limb? s.xselIdx s.xselLimb.toNat = some w ∧
        (∀ (i : XIdx) (j : Nat), (i, j) ≠ (s.xselIdx, s.xselLimb.toNat) → t.limb? i j = s.limb? i j))

/-- R36: an XLIMB read answers the selected limb, bits `32*j+31 : 32*j` of the register's bits, and changes nothing; where
`LIMB ≥ L` it answers 0 and sets WERR. -/
def Obligations.LimbPortRead : Prop :=
  ∀ (s : State) (rest : List Input), s.Inv → s.Facing (.read (s.cfg.base + 0x18) 4) rest →
    (s.xselLimb.toNat < s.cfg.limbs →
      ∃ w : Word, step s = .next (s.answered rest (.data (lanesOf w))) ∧
        w.toNat = regBits (s.x[s.xselIdx.val]) / 2 ^ (32 * s.xselLimb.toNat) % 2 ^ 32) ∧
    (s.cfg.limbs ≤ s.xselLimb.toNat →
      step s = .next (State.answered { s with werr := true } rest (.data (lanesOf 0))))

/-- R30, R31, R32, R34, R35, R37, R38, R67: what a word read of every offset but XLIMB's answers; it changes nothing. -/
def Obligations.WindowReads : Prop :=
  ∀ (s : State) (off : Nat) (rest : List Input), s.Inv → off % 4 = 0 → off < 4096 → off ≠ 0x18 →
    s.Facing (.read (s.cfg.base + off) 4) rest →
    ∃ w : Word, step s = .next (s.answered rest (.data (lanesOf w))) ∧
      (off = 0x00 → w = 0x4E544501) ∧ (off = 0x04 → w.toNat = 0x08100000 + s.cfg.limbs) ∧ (off = 0x08 → w = s.cmd) ∧
      (off = 0x0C → w = statusWord s) ∧ (off = 0x10 → w = if s.ie then 1 else 0) ∧
      (off = 0x14 → w.toNat = s.xselIdx.val + 2 ^ 16 * s.xselLimb.toNat) ∧
      (off = 0x1C → w.toNat < 256 ∧ ∀ i : PIdx, w.getLsbD i.val = (s.point i == .inf)) ∧
      (0x20 ≤ off → w = 0)

/-- R28, R38, R63, R64, R67: a word write to ID, CONFIG, PTINF or a reserved word is ignored; an access aimed at the window that
is not four bytes at a multiple of 4 changes no NTE state and is answered with a bus error (that the model goes on after it
is log entry 6). -/
def Obligations.AccessesWithoutEffect : Prop :=
  ∀ (s : State) (off n : Nat) (w : Word) (lanes : List Byte) (rest : List Input), off < 4096 →
    (off % 4 = 0 → (off = 0x00 ∨ off = 0x04 ∨ 0x1C ≤ off) → s.Facing (.write (s.cfg.base + off) (lanesOf w)) rest →
      step s = .next (s.answered rest .ack)) ∧
    ((n ≠ 4 ∨ off % 4 ≠ 0) → s.Facing (.read (s.cfg.base + off) n) rest →
      step s = .next (s.answered rest .busError)) ∧
    ((lanes.length ≠ 4 ∨ off % 4 ≠ 0) → s.Facing (.write (s.cfg.base + off) lanes) rest →
      step s = .next (s.answered rest .busError))

/-! ### Reset and interrupt -/

/-- R50: the state after the release of the reset input and after a soft reset, for all legal parameters, as the window and the
commands read it; `State.reset` is such a state. -/
def Obligations.ResetValues : Prop :=
  ∀ t : State, t.cfg.legal →
    (t = State.reset ∨
      (∃ s rest, s.resetLine = true ∧ s.env.inputs = .resetLine false :: rest ∧ step s = .next t) ∨
      (∃ s rest w, s.busy = false ∧ s.Facing (.write (s.cfg.base + 0x10) (lanesOf w)) rest ∧ w.getLsbD 1 = true ∧
        step s = .next t)) →
    (∀ i : XIdx, t.xval i = 0 ∧ regBits (t.x[i.val]) = 0) ∧ (∀ i, t.point i = .inf) ∧
    t.crv = { a := 0, b := 0, p := 0 } ∧ t.cv = false ∧ t.pend = none ∧ t.done = false ∧ t.fatal = false ∧
    t.werr = false ∧ statusWord t = 0 ∧ t.cmd = 0 ∧ ctrlWord t = 0 ∧ xselWord t = 0 ∧ (windowRead 0x18 t).1 = 0 ∧
    ptinfWord t = 0xFF ∧ (windowRead 0x00 t).1 = 0x4E544501 ∧
    (windowRead 0x04 t).1.toNat = 0x08100000 + t.cfg.limbs ∧ t.irq = false ∧ t.trace = []

/-- R320: while the reset input is asserted no access is answered; when it is released the state is the reset state, a pending
command dropped. -/
def Obligations.HardReset : Prop :=
  ∀ (s : State) (rest : List Input), s.resetLine = true →
    (s.env.inputs = .resetLine false :: rest →
      step s = .next (State.resetFor s.cfg { s.env with inputs := rest })) ∧
    (∀ (off n : Nat), off < 4096 → s.env.inputs = .read (s.cfg.base + off) n :: rest →
      step s = .next (s.answered rest .none)) ∧
    (∀ (off : Nat) (l : List Byte), off < 4096 → s.env.inputs = .write (s.cfg.base + off) l :: rest →
      step s = .next (s.answered rest .none))

/-- R47, R291: after any command, whatever its code, `irq` is the level of CTRL.IE, and so it is after the step of any pending
word, one that decodes to no command (R284) included; issuing the next command, clearing DONE and a reset lower it. -/
def Obligations.InterruptLevel : Prop :=
  (∀ (i : Instr) (s : State), ∃ t, exec i s = .next t ∧ t.irq = s.ie) ∧
  (∀ (s : State) (c : Word), s.pend = some c → s.resetLine = false → s.env.inputs = [] →
    ∃ t, step s = .next t ∧ t.irq = s.ie) ∧
  (∀ (s : State) (w : Word), (s.issue w).irq = false ∧ s.acknowledge.irq = false ∧ s.toReset.irq = false)

/-! ### The host's programs -/

/-- R36 and the recipes of 20_memory.md section 5: an integer that fits, loaded limb by limb into a register, is read back, and no
other register is changed. -/
def Obligations.LoadThenRead : Prop :=
  ∀ (h : HostState) (i : XIdx) (v : Int), h.nte.HostReady → fits h.nte.cfg v →
    ∃ h' h'', (loadX i v).run h = .ok () h' ∧ h'.nte.xval i = v ∧
      (∀ j : XIdx, j ≠ i → h'.nte.x[j.val] = h.nte.x[j.val]) ∧ (readX i).run h' = .ok v h''

/-- R254, R255, R258: with `n` the product of two distinct primes and `e*d ≡ 1` mod `(p-1)(q-1)`, a message in `[0, n)` that is
encrypted on the NTE and then decrypted on it comes back, with either variant of the exponentiation; a message or
ciphertext outside `[0, n)` is refused. -/
def Obligations.RsaRoundTrip : Prop :=
  (∀ (h : HostState) (ps : HostParams) (p q : Nat) (e d m : Int), h.nte.HostReady → p.Prime → q.Prime → p ≠ q →
    0 ≤ e → 0 ≤ d → e * d % (((p - 1) * (q - 1) : Nat) : Int) = 1 % (((p - 1) * (q - 1) : Nat) : Int) →
    fits h.nte.cfg e → fits h.nte.cfg d → fits h.nte.cfg (p * q : Nat) → 0 ≤ m → m < (p * q : Nat) →
    ∃ c h' h'', (encrypt ps m e (p * q : Nat)).run h = .ok c h' ∧ (decrypt ps c d (p * q : Nat)).run h' = .ok m h'') ∧
  (∀ (h : HostState) (ps : HostParams) (m e n : Int), ¬ (0 ≤ m ∧ m < n) →
    (encrypt ps m e n).run h = .error (.kind .messageTooLarge) h ∧
    (decrypt ps m e n).run h = .error (.kind .invalidCiphertext) h)
end

