-- ==== Sys2Proof/Laws/Arith.lean ====
section
/-! SUPPORT. The integer functions: the loops have fuel enough, and what they compute (R12, R121, R122). -/

namespace Sys2Proof.Machine

/-- The defining property of `bitlen` (R12), one half. -/
theorem lt_two_pow_bitlen (k : Nat) : k < 2 ^ bitlen k := by
  unfold bitlen
  split
  · simp_all
  · exact Nat.lt_log2_self

/-- The defining property of `bitlen` (R12), the other half. -/
theorem two_pow_le_of_lt_bitlen {k n : Nat} (h : n < bitlen k) : 2 ^ n ≤ k := by
  unfold bitlen at h
  split at h
  · omega
  · exact (Nat.pow_le_pow_right (by norm_num) (by omega)).trans (Nat.log2_self_le ‹_›)

@[simp] theorem bitlen_zero : bitlen 0 = 0 := rfl

theorem bitlen_pos {k : Nat} (h : k ≠ 0) : bitlen k = bitlen (k / 2) + 1 := by
  unfold bitlen
  rw [if_neg h]
  by_cases h2 : k / 2 = 0
  · have : k = 1 := by omega
    subst this; rfl
  · rw [if_neg h2, Nat.log2_def k, if_pos (by omega)]

@[simp] theorem bitsUp_zero : bitsUp 0 = [] := rfl

/-- One pass of a loop `while t > 0 … t <- t div 2` (R126, R221): the low bit, then the rest. -/
theorem bitsUp_pos {k : Nat} (h : k ≠ 0) : bitsUp k = k.testBit 0 :: bitsUp (k / 2) := by
  unfold bitsUp
  rw [bitlen_pos h, List.range_succ_eq_map, List.map_cons, List.map_map]
  congr 1
  apply List.map_congr_left
  intro i _
  simp [Nat.testBit_succ]

@[simp] theorem bitsUp_length (k : Nat) : (bitsUp k).length = bitlen k := by simp [bitsUp]

@[simp] theorem bitsDown_length (k : Nat) : (bitsDown k).length = bitlen k := by simp [bitsDown]

@[simp] theorem bitsDown_zero : bitsDown 0 = [] := rfl

/-- The top-down scan ends with the low bit (R127, R222). -/
theorem bitsDown_pos {k : Nat} (h : k ≠ 0) : bitsDown k = bitsDown (k / 2) ++ [k.testBit 0] := by
  simp [bitsDown, bitsUp_pos h]

theorem gcdLoop_eq {fuel a b : Nat} (h : b < fuel) : gcdLoop fuel a b = Nat.gcd a b := by
  induction fuel generalizing a b with
  | zero => omega
  | succ f ih =>
    unfold gcdLoop
    split
    · simp_all
    · have hlt : a % b < b := Nat.mod_lt _ (by omega)
      rw [ih (by omega), Nat.gcd_comm b, ← Nat.gcd_rec b a, Nat.gcd_comm]

/-- The loop of R121 computes the greatest common divisor. -/
theorem gcdValue_eq (a b : Nat) : gcdValue a b = Nat.gcd a b := gcdLoop_eq (Nat.lt_succ_self b)

theorem egcdLoop_fuel {f g a b : Nat} (hf : b < f) (hg : b < g) : egcdLoop f a b = egcdLoop g a b := by
  induction f generalizing g a b with
  | zero => omega
  | succ f ih =>
    obtain _ | g := g
    · omega
    unfold egcdLoop
    split
    · rfl
    · have hlt : a % b < b := Nat.mod_lt _ (by omega)
      rw [ih (g := g) (by omega) (by omega)]

/-- R122, the end of the recursion. -/
@[simp] theorem egcd_zero (a : Nat) : egcd a 0 = (a, 1, 0) := rfl

/-- R122, one step of the recursion. -/
theorem egcd_pos (a : Nat) {b : Nat} (h : b ≠ 0) :
    egcd a b =
      ((egcd b (a % b)).1, (egcd b (a % b)).2.2,
        (egcd b (a % b)).2.1 - ((a / b : Nat) : Int) * (egcd b (a % b)).2.2) := by
  have hlt : a % b < b := Nat.mod_lt _ (by omega)
  have e : egcdLoop b b (a % b) = egcd b (a % b) := egcdLoop_fuel (by omega) (by omega)
  conv_lhs => unfold egcd egcdLoop
  rw [if_neg h]
  simp only [e]

/-- An induction along the recursion of R122. -/
theorem egcd_induction {motive : Nat → Nat → Prop} (zero : ∀ a, motive a 0)
    (step : ∀ a b, b ≠ 0 → motive b (a % b) → motive a b) (a b : Nat) : motive a b := by
  induction b using Nat.strong_induction_on generalizing a with
  | _ b ih =>
    by_cases h : b = 0
    · subst h; exact zero a
    · exact step a b h (ih _ (Nat.mod_lt _ (by omega)) _)

theorem egcd_fst (a b : Nat) : (egcd a b).1 = Nat.gcd a b := by
  induction a, b using egcd_induction with
  | zero a => simp
  | step a b h ih => rw [egcd_pos a h, ih, Nat.gcd_comm b, ← Nat.gcd_rec b a, Nat.gcd_comm]

/-- The contract of R122: `a*x + b*y = g`. -/
theorem egcd_bezout (a b : Nat) : (a : Int) * (egcd a b).2.1 + b * (egcd a b).2.2 = (egcd a b).1 := by
  induction a, b using egcd_induction with
  | zero a => simp
  | step a b h ih =>
    rw [egcd_pos a h]
    simp only [← ih]
    have hd : (a : Int) = b * ((a / b : Nat) : Int) + ((a % b : Nat) : Int) := by
      exact_mod_cast (Nat.div_add_mod a b).symm
    linear_combination (egcd b (a % b)).2.2 * hd

theorem mulMod_range {m : Int} (hm : 0 < m) (u v : Int) : 0 ≤ mulMod m u v ∧ mulMod m u v < m :=
  ⟨Int.emod_nonneg _ hm.ne', Int.emod_lt_of_pos _ hm⟩

end Sys2Proof.Machine
end

