-- ==== Sys2Proof/Laws/State.lean ====
section
/-! SUPPORT. One lemma per field per update of State, and of the outside world, so that no later proof unfolds a record
update. -/

namespace Sys2Proof.Machine

@[simp] theorem State.setX_cfg (s : State) (i : XIdx) (v : Int) : (s.setX i v).cfg = s.cfg := rfl
@[simp] theorem State.setX_x (s : State) (i : XIdx) (v : Int) : (s.setX i v).x = s.x.set i.val (regOfVal s.cfg.limbs v) := rfl
@[simp] theorem State.setX_pt (s : State) (i : XIdx) (v : Int) : (s.setX i v).pt = s.pt := rfl
@[simp] theorem State.setX_crv (s : State) (i : XIdx) (v : Int) : (s.setX i v).crv = s.crv := rfl
@[simp] theorem State.setX_cv (s : State) (i : XIdx) (v : Int) : (s.setX i v).cv = s.cv := rfl
@[simp] theorem State.setX_pend (s : State) (i : XIdx) (v : Int) : (s.setX i v).pend = s.pend := rfl
@[simp] theorem State.setX_done (s : State) (i : XIdx) (v : Int) : (s.setX i v).done = s.done := rfl
@[simp] theorem State.setX_fatal (s : State) (i : XIdx) (v : Int) : (s.setX i v).fatal = s.fatal := rfl
@[simp] theorem State.setX_werr (s : State) (i : XIdx) (v : Int) : (s.setX i v).werr = s.werr := rfl
@[simp] theorem State.setX_code (s : State) (i : XIdx) (v : Int) : (s.setX i v).code = s.code := rfl
@[simp] theorem State.setX_cmd (s : State) (i : XIdx) (v : Int) : (s.setX i v).cmd = s.cmd := rfl
@[simp] theorem State.setX_ie (s : State) (i : XIdx) (v : Int) : (s.setX i v).ie = s.ie := rfl
@[simp] theorem State.setX_xselIdx (s : State) (i : XIdx) (v : Int) : (s.setX i v).xselIdx = s.xselIdx := rfl
@[simp] theorem State.setX_xselLimb (s : State) (i : XIdx) (v : Int) : (s.setX i v).xselLimb = s.xselLimb := rfl
@[simp] theorem State.setX_trace (s : State) (i : XIdx) (v : Int) : (s.setX i v).trace = s.trace := rfl
@[simp] theorem State.setX_resetLine (s : State) (i : XIdx) (v : Int) : (s.setX i v).resetLine = s.resetLine := rfl
@[simp] theorem State.setX_env (s : State) (i : XIdx) (v : Int) : (s.setX i v).env = s.env := rfl

@[simp] theorem State.setPoint_cfg (s : State) (i : PIdx) (P : Point) : (s.setPoint i P).cfg = s.cfg := rfl
@[simp] theorem State.setPoint_x (s : State) (i : PIdx) (P : Point) : (s.setPoint i P).x = s.x := rfl
@[simp] theorem State.setPoint_pt (s : State) (i : PIdx) (P : Point) : (s.setPoint i P).pt = s.pt.set i.val P := rfl
@[simp] theorem State.setPoint_crv (s : State) (i : PIdx) (P : Point) : (s.setPoint i P).crv = s.crv := rfl
@[simp] theorem State.setPoint_cv (s : State) (i : PIdx) (P : Point) : (s.setPoint i P).cv = s.cv := rfl
@[simp] theorem State.setPoint_pend (s : State) (i : PIdx) (P : Point) : (s.setPoint i P).pend = s.pend := rfl
@[simp] theorem State.setPoint_done (s : State) (i : PIdx) (P : Point) : (s.setPoint i P).done = s.done := rfl
@[simp] theorem State.setPoint_fatal (s : State) (i : PIdx) (P : Point) : (s.setPoint i P).fatal = s.fatal := rfl
@[simp] theorem State.setPoint_werr (s : State) (i : PIdx) (P : Point) : (s.setPoint i P).werr = s.werr := rfl
@[simp] theorem State.setPoint_code (s : State) (i : PIdx) (P : Point) : (s.setPoint i P).code = s.code := rfl
@[simp] theorem State.setPoint_cmd (s : State) (i : PIdx) (P : Point) : (s.setPoint i P).cmd = s.cmd := rfl
@[simp] theorem State.setPoint_ie (s : State) (i : PIdx) (P : Point) : (s.setPoint i P).ie = s.ie := rfl
@[simp] theorem State.setPoint_xselIdx (s : State) (i : PIdx) (P : Point) : (s.setPoint i P).xselIdx = s.xselIdx := rfl
@[simp] theorem State.setPoint_xselLimb (s : State) (i : PIdx) (P : Point) : (s.setPoint i P).xselLimb = s.xselLimb := rfl
@[simp] theorem State.setPoint_trace (s : State) (i : PIdx) (P : Point) : (s.setPoint i P).trace = s.trace := rfl
@[simp] theorem State.setPoint_resetLine (s : State) (i : PIdx) (P : Point) : (s.setPoint i P).resetLine = s.resetLine := rfl
@[simp] theorem State.setPoint_env (s : State) (i : PIdx) (P : Point) : (s.setPoint i P).env = s.env := rfl

@[simp] theorem State.setContext_cfg (s : State) (c : Curve) (b : Bool) : (s.setContext c b).cfg = s.cfg := rfl
@[simp] theorem State.setContext_x (s : State) (c : Curve) (b : Bool) : (s.setContext c b).x = s.x := rfl
@[simp] theorem State.setContext_pt (s : State) (c : Curve) (b : Bool) : (s.setContext c b).pt = Vector.replicate 8 .inf := rfl
@[simp] theorem State.setContext_crv (s : State) (c : Curve) (b : Bool) : (s.setContext c b).crv = c := rfl
@[simp] theorem State.setContext_cv (s : State) (c : Curve) (b : Bool) : (s.setContext c b).cv = b := rfl
@[simp] theorem State.setContext_pend (s : State) (c : Curve) (b : Bool) : (s.setContext c b).pend = s.pend := rfl
@[simp] theorem State.setContext_done (s : State) (c : Curve) (b : Bool) : (s.setContext c b).done = s.done := rfl
@[simp] theorem State.setContext_fatal (s : State) (c : Curve) (b : Bool) : (s.setContext c b).fatal = s.fatal := rfl
@[simp] theorem State.setContext_werr (s : State) (c : Curve) (b : Bool) : (s.setContext c b).werr = s.werr := rfl
@[simp] theorem State.setContext_code (s : State) (c : Curve) (b : Bool) : (s.setContext c b).code = s.code := rfl
@[simp] theorem State.setContext_cmd (s : State) (c : Curve) (b : Bool) : (s.setContext c b).cmd = s.cmd := rfl
@[simp] theorem State.setContext_ie (s : State) (c : Curve) (b : Bool) : (s.setContext c b).ie = s.ie := rfl
@[simp] theorem State.setContext_xselIdx (s : State) (c : Curve) (b : Bool) : (s.setContext c b).xselIdx = s.xselIdx := rfl
@[simp] theorem State.setContext_xselLimb (s : State) (c : Curve) (b : Bool) : (s.setContext c b).xselLimb = s.xselLimb := rfl
@[simp] theorem State.setContext_trace (s : State) (c : Curve) (b : Bool) : (s.setContext c b).trace = s.trace := rfl
@[simp] theorem State.setContext_resetLine (s : State) (c : Curve) (b : Bool) : (s.setContext c b).resetLine = s.resetLine := rfl
@[simp] theorem State.setContext_env (s : State) (c : Curve) (b : Bool) : (s.setContext c b).env = s.env := rfl

@[simp] theorem State.setLimb_cfg (s : State) (i : XIdx) (j : Nat) (v : Limb) : (s.setLimb i j v).cfg = s.cfg := rfl
@[simp] theorem State.setLimb_x (s : State) (i : XIdx) (j : Nat) (v : Limb) : (s.setLimb i j v).x = s.x.set i.val ((s.x[i.val]).set j v) := rfl
@[simp] theorem State.setLimb_pt (s : State) (i : XIdx) (j : Nat) (v : Limb) : (s.setLimb i j v).pt = s.pt := rfl
@[simp] theorem State.setLimb_crv (s : State) (i : XIdx) (j : Nat) (v : Limb) : (s.setLimb i j v).crv = s.crv := rfl
@[simp] theorem State.setLimb_cv (s : State) (i : XIdx) (j : Nat) (v : Limb) : (s.setLimb i j v).cv = s.cv := rfl
@[simp] theorem State.setLimb_pend (s : State) (i : XIdx) (j : Nat) (v : Limb) : (s.setLimb i j v).pend = s.pend := rfl
@[simp] theorem State.setLimb_done (s : State) (i : XIdx) (j : Nat) (v : Limb) : (s.setLimb i j v).done = s.done := rfl
@[simp] theorem State.setLimb_fatal (s : State) (i : XIdx) (j : Nat) (v : Limb) : (s.setLimb i j v).fatal = s.fatal := rfl
@[simp] theorem State.setLimb_werr (s : State) (i : XIdx) (j : Nat) (v : Limb) : (s.setLimb i j v).werr = s.werr := rfl
@[simp] theorem State.setLimb_code (s : State) (i : XIdx) (j : Nat) (v : Limb) : (s.setLimb i j v).code = s.code := rfl
@[simp] theorem State.setLimb_cmd (s : State) (i : XIdx) (j : Nat) (v : Limb) : (s.setLimb i j v).cmd = s.cmd := rfl
@[simp] theorem State.setLimb_ie (s : State) (i : XIdx) (j : Nat) (v : Limb) : (s.setLimb i j v).ie = s.ie := rfl
@[simp] theorem State.setLimb_xselIdx (s : State) (i : XIdx) (j : Nat) (v : Limb) : (s.setLimb i j v).xselIdx = s.xselIdx := rfl
@[simp] theorem State.setLimb_xselLimb (s : State) (i : XIdx) (j : Nat) (v : Limb) : (s.setLimb i j v).xselLimb = s.xselLimb := rfl
@[simp] theorem State.setLimb_trace (s : State) (i : XIdx) (j : Nat) (v : Limb) : (s.setLimb i j v).trace = s.trace := rfl
@[simp] theorem State.setLimb_resetLine (s : State) (i : XIdx) (j : Nat) (v : Limb) : (s.setLimb i j v).resetLine = s.resetLine := rfl
@[simp] theorem State.setLimb_env (s : State) (i : XIdx) (j : Nat) (v : Limb) : (s.setLimb i j v).env = s.env := rfl

@[simp] theorem State.finish_cfg (s : State) (r : Run) (c : Code) : (s.finish r c).cfg = s.cfg := rfl
@[simp] theorem State.finish_x (s : State) (r : Run) (c : Code) : (s.finish r c).x = s.x := rfl
@[simp] theorem State.finish_pt (s : State) (r : Run) (c : Code) : (s.finish r c).pt = s.pt := rfl
@[simp] theorem State.finish_crv (s : State) (r : Run) (c : Code) : (s.finish r c).crv = s.crv := rfl
@[simp] theorem State.finish_cv (s : State) (r : Run) (c : Code) : (s.finish r c).cv = s.cv := rfl
@[simp] theorem State.finish_pend (s : State) (r : Run) (c : Code) : (s.finish r c).pend = none := rfl
@[simp] theorem State.finish_done (s : State) (r : Run) (c : Code) : (s.finish r c).done = true := rfl
@[simp] theorem State.finish_fatal (s : State) (r : Run) (c : Code) : (s.finish r c).fatal = s.fatal := rfl
@[simp] theorem State.finish_werr (s : State) (r : Run) (c : Code) : (s.finish r c).werr = s.werr := rfl
@[simp] theorem State.finish_code (s : State) (r : Run) (c : Code) : (s.finish r c).code = c := rfl
@[simp] theorem State.finish_cmd (s : State) (r : Run) (c : Code) : (s.finish r c).cmd = s.cmd := rfl
@[simp] theorem State.finish_ie (s : State) (r : Run) (c : Code) : (s.finish r c).ie = s.ie := rfl
@[simp] theorem State.finish_xselIdx (s : State) (r : Run) (c : Code) : (s.finish r c).xselIdx = s.xselIdx := rfl
@[simp] theorem State.finish_xselLimb (s : State) (r : Run) (c : Code) : (s.finish r c).xselLimb = s.xselLimb := rfl
@[simp] theorem State.finish_trace (s : State) (r : Run) (c : Code) : (s.finish r c).trace = r.trace := rfl
@[simp] theorem State.finish_resetLine (s : State) (r : Run) (c : Code) : (s.finish r c).resetLine = s.resetLine := rfl
@[simp] theorem State.finish_env (s : State) (r : Run) (c : Code) : (s.finish r c).env = s.env.consume r.draws := rfl

@[simp] theorem State.raise_cfg (s : State) (r : Run) (c : Code) : (s.raise r c).cfg = s.cfg := rfl
@[simp] theorem State.raise_x (s : State) (r : Run) (c : Code) : (s.raise r c).x = s.x := rfl
@[simp] theorem State.raise_pt (s : State) (r : Run) (c : Code) : (s.raise r c).pt = s.pt := rfl
@[simp] theorem State.raise_crv (s : State) (r : Run) (c : Code) : (s.raise r c).crv = s.crv := rfl
@[simp] theorem State.raise_cv (s : State) (r : Run) (c : Code) : (s.raise r c).cv = s.cv := rfl
@[simp] theorem State.raise_pend (s : State) (r : Run) (c : Code) : (s.raise r c).pend = none := rfl
@[simp] theorem State.raise_done (s : State) (r : Run) (c : Code) : (s.raise r c).done = true := rfl
@[simp] theorem State.raise_fatal (s : State) (r : Run) (c : Code) : (s.raise r c).fatal = s.fatal := rfl
@[simp] theorem State.raise_werr (s : State) (r : Run) (c : Code) : (s.raise r c).werr = s.werr := rfl
@[simp] theorem State.raise_code (s : State) (r : Run) (c : Code) : (s.raise r c).code = c := rfl
@[simp] theorem State.raise_cmd (s : State) (r : Run) (c : Code) : (s.raise r c).cmd = s.cmd := rfl
@[simp] theorem State.raise_ie (s : State) (r : Run) (c : Code) : (s.raise r c).ie = s.ie := rfl
@[simp] theorem State.raise_xselIdx (s : State) (r : Run) (c : Code) : (s.raise r c).xselIdx = s.xselIdx := rfl
@[simp] theorem State.raise_xselLimb (s : State) (r : Run) (c : Code) : (s.raise r c).xselLimb = s.xselLimb := rfl
@[simp] theorem State.raise_trace (s : State) (r : Run) (c : Code) : (s.raise r c).trace = r.trace := rfl
@[simp] theorem State.raise_resetLine (s : State) (r : Run) (c : Code) : (s.raise r c).resetLine = s.resetLine := rfl
@[simp] theorem State.raise_env (s : State) (r : Run) (c : Code) : (s.raise r c).env = s.env.consume r.draws := rfl

@[simp] theorem State.raiseFatal_cfg (s : State) (r : Run) : (s.raiseFatal r).cfg = s.cfg := rfl
@[simp] theorem State.raiseFatal_x (s : State) (r : Run) : (s.raiseFatal r).x = s.x := rfl
@[simp] theorem State.raiseFatal_pt (s : State) (r : Run) : (s.raiseFatal r).pt = s.pt := rfl
@[simp] theorem State.raiseFatal_crv (s : State) (r : Run) : (s.raiseFatal r).crv = s.crv := rfl
@[simp] theorem State.raiseFatal_cv (s : State) (r : Run) : (s.raiseFatal r).cv = s.cv := rfl
@[simp] theorem State.raiseFatal_pend (s : State) (r : Run) : (s.raiseFatal r).pend = none := rfl
@[simp] theorem State.raiseFatal_done (s : State) (r : Run) : (s.raiseFatal r).done = true := rfl
@[simp] theorem State.raiseFatal_fatal (s : State) (r : Run) : (s.raiseFatal r).fatal = true := rfl
@[simp] theorem State.raiseFatal_werr (s : State) (r : Run) : (s.raiseFatal r).werr = s.werr := rfl
@[simp] theorem State.raiseFatal_code (s : State) (r : Run) : (s.raiseFatal r).code = .divisionByZero := rfl
@[simp] theorem State.raiseFatal_cmd (s : State) (r : Run) : (s.raiseFatal r).cmd = s.cmd := rfl
@[simp] theorem State.raiseFatal_ie (s : State) (r : Run) : (s.raiseFatal r).ie = s.ie := rfl
@[simp] theorem State.raiseFatal_xselIdx (s : State) (r : Run) : (s.raiseFatal r).xselIdx = s.xselIdx := rfl
@[simp] theorem State.raiseFatal_xselLimb (s : State) (r : Run) : (s.raiseFatal r).xselLimb = s.xselLimb := rfl
@[simp] theorem State.raiseFatal_trace (s : State) (r : Run) : (s.raiseFatal r).trace = r.trace := rfl
@[simp] theorem State.raiseFatal_resetLine (s : State) (r : Run) : (s.raiseFatal r).resetLine = s.resetLine := rfl
@[simp] theorem State.raiseFatal_env (s : State) (r : Run) : (s.raiseFatal r).env = s.env.consume r.draws := rfl

@[simp] theorem State.acknowledge_cfg (s : State) : (s.acknowledge).cfg = s.cfg := rfl
@[simp] theorem State.acknowledge_x (s : State) : (s.acknowledge).x = s.x := rfl
@[simp] theorem State.acknowledge_pt (s : State) : (s.acknowledge).pt = s.pt := rfl
@[simp] theorem State.acknowledge_crv (s : State) : (s.acknowledge).crv = s.crv := rfl
@[simp] theorem State.acknowledge_cv (s : State) : (s.acknowledge).cv = s.cv := rfl
@[simp] theorem State.acknowledge_pend (s : State) : (s.acknowledge).pend = s.pend := rfl
@[simp] theorem State.acknowledge_done (s : State) : (s.acknowledge).done = false := rfl
@[simp] theorem State.acknowledge_fatal (s : State) : (s.acknowledge).fatal = s.fatal := rfl
@[simp] theorem State.acknowledge_werr (s : State) : (s.acknowledge).werr = s.werr := rfl
@[simp] theorem State.acknowledge_code (s : State) : (s.acknowledge).code = s.code := rfl
@[simp] theorem State.acknowledge_cmd (s : State) : (s.acknowledge).cmd = s.cmd := rfl
@[simp] theorem State.acknowledge_ie (s : State) : (s.acknowledge).ie = s.ie := rfl
@[simp] theorem State.acknowledge_xselIdx (s : State) : (s.acknowledge).xselIdx = s.xselIdx := rfl
@[simp] theorem State.acknowledge_xselLimb (s : State) : (s.acknowledge).xselLimb = s.xselLimb := rfl
@[simp] theorem State.acknowledge_trace (s : State) : (s.acknowledge).trace = s.trace := rfl
@[simp] theorem State.acknowledge_resetLine (s : State) : (s.acknowledge).resetLine = s.resetLine := rfl
@[simp] theorem State.acknowledge_env (s : State) : (s.acknowledge).env = s.env := rfl

@[simp] theorem State.issue_cfg (s : State) (w : Word) : (s.issue w).cfg = s.cfg := rfl
@[simp] theorem State.issue_x (s : State) (w : Word) : (s.issue w).x = s.x := rfl
@[simp] theorem State.issue_pt (s : State) (w : Word) : (s.issue w).pt = s.pt := rfl
@[simp] theorem State.issue_crv (s : State) (w : Word) : (s.issue w).crv = s.crv := rfl
@[simp] theorem State.issue_cv (s : State) (w : Word) : (s.issue w).cv = s.cv := rfl
@[simp] theorem State.issue_pend (s : State) (w : Word) : (s.issue w).pend = some w := rfl
@[simp] theorem State.issue_done (s : State) (w : Word) : (s.issue w).done = false := rfl
@[simp] theorem State.issue_fatal (s : State) (w : Word) : (s.issue w).fatal = s.fatal := rfl
@[simp] theorem State.issue_werr (s : State) (w : Word) : (s.issue w).werr = s.werr := rfl
@[simp] theorem State.issue_code (s : State) (w : Word) : (s.issue w).code = .ok := rfl
@[simp] theorem State.issue_cmd (s : State) (w : Word) : (s.issue w).cmd = w := rfl
@[simp] theorem State.issue_ie (s : State) (w : Word) : (s.issue w).ie = s.ie := rfl
@[simp] theorem State.issue_xselIdx (s : State) (w : Word) : (s.issue w).xselIdx = s.xselIdx := rfl
@[simp] theorem State.issue_xselLimb (s : State) (w : Word) : (s.issue w).xselLimb = s.xselLimb := rfl
@[simp] theorem State.issue_trace (s : State) (w : Word) : (s.issue w).trace = s.trace := rfl
@[simp] theorem State.issue_resetLine (s : State) (w : Word) : (s.issue w).resetLine = s.resetLine := rfl
@[simp] theorem State.issue_env (s : State) (w : Word) : (s.issue w).env = s.env := rfl

@[simp] theorem State.refuseAccess_cfg (s : State) : (s.refuseAccess).cfg = s.cfg := rfl
@[simp] theorem State.refuseAccess_x (s : State) : (s.refuseAccess).x = s.x := rfl
@[simp] theorem State.refuseAccess_pt (s : State) : (s.refuseAccess).pt = s.pt := rfl
@[simp] theorem State.refuseAccess_crv (s : State) : (s.refuseAccess).crv = s.crv := rfl
@[simp] theorem State.refuseAccess_cv (s : State) : (s.refuseAccess).cv = s.cv := rfl
@[simp] theorem State.refuseAccess_pend (s : State) : (s.refuseAccess).pend = s.pend := rfl
@[simp] theorem State.refuseAccess_done (s : State) : (s.refuseAccess).done = s.done := rfl
@[simp] theorem State.refuseAccess_fatal (s : State) : (s.refuseAccess).fatal = s.fatal := rfl
@[simp] theorem State.refuseAccess_werr (s : State) : (s.refuseAccess).werr = true := rfl
@[simp] theorem State.refuseAccess_code (s : State) : (s.refuseAccess).code = s.code := rfl
@[simp] theorem State.refuseAccess_cmd (s : State) : (s.refuseAccess).cmd = s.cmd := rfl
@[simp] theorem State.refuseAccess_ie (s : State) : (s.refuseAccess).ie = s.ie := rfl
@[simp] theorem State.refuseAccess_xselIdx (s : State) : (s.refuseAccess).xselIdx = s.xselIdx := rfl
@[simp] theorem State.refuseAccess_xselLimb (s : State) : (s.refuseAccess).xselLimb = s.xselLimb := rfl
@[simp] theorem State.refuseAccess_trace (s : State) : (s.refuseAccess).trace = s.trace := rfl
@[simp] theorem State.refuseAccess_resetLine (s : State) : (s.refuseAccess).resetLine = s.resetLine := rfl
@[simp] theorem State.refuseAccess_env (s : State) : (s.refuseAccess).env = s.env := rfl

@[simp] theorem State.respond_cfg (s : State) (r : Response) : (s.respond r).cfg = s.cfg := rfl
@[simp] theorem State.respond_x (s : State) (r : Response) : (s.respond r).x = s.x := rfl
@[simp] theorem State.respond_pt (s : State) (r : Response) : (s.respond r).pt = s.pt := rfl
@[simp] theorem State.respond_crv (s : State) (r : Response) : (s.respond r).crv = s.crv := rfl
@[simp] theorem State.respond_cv (s : State) (r : Response) : (s.respond r).cv = s.cv := rfl
@[simp] theorem State.respond_pend (s : State) (r : Response) : (s.respond r).pend = s.pend := rfl
@[simp] theorem State.respond_done (s : State) (r : Response) : (s.respond r).done = s.done := rfl
@[simp] theorem State.respond_fatal (s : State) (r : Response) : (s.respond r).fatal = s.fatal := rfl
@[simp] theorem State.respond_werr (s : State) (r : Response) : (s.respond r).werr = s.werr := rfl
@[simp] theorem State.respond_code (s : State) (r : Response) : (s.respond r).code = s.code := rfl
@[simp] theorem State.respond_cmd (s : State) (r : Response) : (s.respond r).cmd = s.cmd := rfl
@[simp] theorem State.respond_ie (s : State) (r : Response) : (s.respond r).ie = s.ie := rfl
@[simp] theorem State.respond_xselIdx (s : State) (r : Response) : (s.respond r).xselIdx = s.xselIdx := rfl
@[simp] theorem State.respond_xselLimb (s : State) (r : Response) : (s.respond r).xselLimb = s.xselLimb := rfl
@[simp] theorem State.respond_trace (s : State) (r : Response) : (s.respond r).trace = s.trace := rfl
@[simp] theorem State.respond_resetLine (s : State) (r : Response) : (s.respond r).resetLine = s.resetLine := rfl
@[simp] theorem State.respond_env (s : State) (r : Response) : (s.respond r).env = { s.env with response := r } := rfl

@[simp] theorem State.popInput_cfg (s : State) (l : List Input) : (s.popInput l).cfg = s.cfg := rfl
@[simp] theorem State.popInput_x (s : State) (l : List Input) : (s.popInput l).x = s.x := rfl
@[simp] theorem State.popInput_pt (s : State) (l : List Input) : (s.popInput l).pt = s.pt := rfl
@[simp] theorem State.popInput_crv (s : State) (l : List Input) : (s.popInput l).crv = s.crv := rfl
@[simp] theorem State.popInput_cv (s : State) (l : List Input) : (s.popInput l).cv = s.cv := rfl
@[simp] theorem State.popInput_pend (s : State) (l : List Input) : (s.popInput l).pend = s.pend := rfl
@[simp] theorem State.popInput_done (s : State) (l : List Input) : (s.popInput l).done = s.done := rfl
@[simp] theorem State.popInput_fatal (s : State) (l : List Input) : (s.popInput l).fatal = s.fatal := rfl
@[simp] theorem State.popInput_werr (s : State) (l : List Input) : (s.popInput l).werr = s.werr := rfl
@[simp] theorem State.popInput_code (s : State) (l : List Input) : (s.popInput l).code = s.code := rfl
@[simp] theorem State.popInput_cmd (s : State) (l : List Input) : (s.popInput l).cmd = s.cmd := rfl
@[simp] theorem State.popInput_ie (s : State) (l : List Input) : (s.popInput l).ie = s.ie := rfl
@[simp] theorem State.popInput_xselIdx (s : State) (l : List Input) : (s.popInput l).xselIdx = s.xselIdx := rfl
@[simp] theorem State.popInput_xselLimb (s : State) (l : List Input) : (s.popInput l).xselLimb = s.xselLimb := rfl
@[simp] theorem State.popInput_trace (s : State) (l : List Input) : (s.popInput l).trace = s.trace := rfl
@[simp] theorem State.popInput_resetLine (s : State) (l : List Input) : (s.popInput l).resetLine = s.resetLine := rfl
@[simp] theorem State.popInput_env (s : State) (l : List Input) : (s.popInput l).env = { s.env with inputs := l } := rfl

@[simp] theorem State.placeWord_cfg (s : State) (w : Word) : (s.placeWord w).cfg = s.cfg := rfl
@[simp] theorem State.placeWord_x (s : State) (w : Word) : (s.placeWord w).x = s.x := rfl
@[simp] theorem State.placeWord_pt (s : State) (w : Word) : (s.placeWord w).pt = s.pt := rfl
@[simp] theorem State.placeWord_crv (s : State) (w : Word) : (s.placeWord w).crv = s.crv := rfl
@[simp] theorem State.placeWord_cv (s : State) (w : Word) : (s.placeWord w).cv = s.cv := rfl
@[simp] theorem State.placeWord_pend (s : State) (w : Word) : (s.placeWord w).pend = some w := rfl
@[simp] theorem State.placeWord_done (s : State) (w : Word) : (s.placeWord w).done = false := rfl
@[simp] theorem State.placeWord_fatal (s : State) (w : Word) : (s.placeWord w).fatal = s.fatal := rfl
@[simp] theorem State.placeWord_werr (s : State) (w : Word) : (s.placeWord w).werr = s.werr := rfl
@[simp] theorem State.placeWord_code (s : State) (w : Word) : (s.placeWord w).code = .ok := rfl
@[simp] theorem State.placeWord_cmd (s : State) (w : Word) : (s.placeWord w).cmd = w := rfl
@[simp] theorem State.placeWord_ie (s : State) (w : Word) : (s.placeWord w).ie = s.ie := rfl
@[simp] theorem State.placeWord_xselIdx (s : State) (w : Word) : (s.placeWord w).xselIdx = s.xselIdx := rfl
@[simp] theorem State.placeWord_xselLimb (s : State) (w : Word) : (s.placeWord w).xselLimb = s.xselLimb := rfl
@[simp] theorem State.placeWord_trace (s : State) (w : Word) : (s.placeWord w).trace = s.trace := rfl
@[simp] theorem State.placeWord_resetLine (s : State) (w : Word) : (s.placeWord w).resetLine = false := rfl
@[simp] theorem State.placeWord_env (s : State) (w : Word) : (s.placeWord w).env = { s.env with inputs := .engine :: s.env.inputs } := rfl

@[simp] theorem State.resetFor_cfg (c : Config) (e : Env) : (State.resetFor c e).cfg = c := rfl
@[simp] theorem State.resetFor_x (c : Config) (e : Env) : (State.resetFor c e).x = Vector.replicate 16 (List.replicate c.limbs 0) := rfl
@[simp] theorem State.resetFor_pt (c : Config) (e : Env) : (State.resetFor c e).pt = Vector.replicate 8 .inf := rfl
@[simp] theorem State.resetFor_crv (c : Config) (e : Env) : (State.resetFor c e).crv = { a := 0, b := 0, p := 0 } := rfl
@[simp] theorem State.resetFor_cv (c : Config) (e : Env) : (State.resetFor c e).cv = false := rfl
@[simp] theorem State.resetFor_pend (c : Config) (e : Env) : (State.resetFor c e).pend = none := rfl
@[simp] theorem State.resetFor_done (c : Config) (e : Env) : (State.resetFor c e).done = false := rfl
@[simp] theorem State.resetFor_fatal (c : Config) (e : Env) : (State.resetFor c e).fatal = false := rfl
@[simp] theorem State.resetFor_werr (c : Config) (e : Env) : (State.resetFor c e).werr = false := rfl
@[simp] theorem State.resetFor_code (c : Config) (e : Env) : (State.resetFor c e).code = .ok := rfl
@[simp] theorem State.resetFor_cmd (c : Config) (e : Env) : (State.resetFor c e).cmd = 0 := rfl
@[simp] theorem State.resetFor_ie (c : Config) (e : Env) : (State.resetFor c e).ie = false := rfl
@[simp] theorem State.resetFor_xselIdx (c : Config) (e : Env) : (State.resetFor c e).xselIdx = 0 := rfl
@[simp] theorem State.resetFor_xselLimb (c : Config) (e : Env) : (State.resetFor c e).xselLimb = 0 := rfl
@[simp] theorem State.resetFor_trace (c : Config) (e : Env) : (State.resetFor c e).trace = [] := rfl
@[simp] theorem State.resetFor_resetLine (c : Config) (e : Env) : (State.resetFor c e).resetLine = false := rfl
@[simp] theorem State.resetFor_env (c : Config) (e : Env) : (State.resetFor c e).env = e := rfl

theorem State.toReset_eq (s : State) : s.toReset = State.resetFor s.cfg s.env := rfl

@[simp] theorem Env.consume_inputs (e : Env) (k : Nat) : (e.consume k).inputs = e.inputs := rfl
@[simp] theorem Env.consume_draws (e : Env) (k : Nat) : (e.consume k).draws = e.draws.drop k := rfl
@[simp] theorem Env.consume_freeIx (e : Env) (k : Nat) : (e.consume k).freeIx = e.freeIx + k := rfl
@[simp] theorem Env.consume_response (e : Env) (k : Nat) : (e.consume k).response = e.response := rfl

end Sys2Proof.Machine
end

