-- ==== Sys2Proof/Laws/Operands.lean ====
section
/-! SUPPORT. Registers: the stored bits and the signed value give each other back, and a write is read back and leaves every
other register alone (R13, R16, R20, R36). -/

namespace Sys2Proof.Machine

@[simp] theorem regOfBits_length (k u : Nat) : (regOfBits k u).length = k := by
  induction k generalizing u with
  | zero => rfl
  | succ k ih => simp [regOfBits, ih]

@[simp] theorem regOfVal_length (k : Nat) (v : Int) : (regOfVal k v).length = k := regOfBits_length k _

theorem regBits_lt (r : Reg) : regBits r < 2 ^ (32 * r.length) := by
  induction r with
  | nil => simp [regBits]
  | cons l ls ih =>
    have hl : l.toNat < 2 ^ 32 := l.isLt
    have hp : 2 ^ (32 * (l :: ls).length) = 2 ^ 32 * 2 ^ (32 * ls.length) := by
      rw [← pow_add]; congr 1; simp; ring
    rw [hp, regBits]
    omega

theorem regBits_regOfBits (k u : Nat) (h : u < 2 ^ (32 * k)) : regBits (regOfBits k u) = u := by
  induction k generalizing u with
  | zero => simp at h; simp [regOfBits, regBits, h]
  | succ k ih =>
    have hp : 2 ^ (32 * (k + 1)) = 2 ^ 32 * 2 ^ (32 * k) := by rw [← pow_add]; congr 1; ring
    have hq : u / 2 ^ 32 < 2 ^ (32 * k) := Nat.div_lt_of_lt_mul (hp ▸ h)
    simp only [regOfBits, regBits, ih _ hq, BitVec.toNat_ofNat]
    omega

/-- A zero register reads as zero. -/
theorem regVal_replicate_zero (k : Nat) : regVal (List.replicate k 0) = 0 := by
  have h : ∀ k, regBits (List.replicate k 0#32) = 0 := by
    intro k
    induction k with
    | zero => rfl
    | succ k ih => rw [List.replicate_succ, regBits, ih]; rfl
  simp [regVal, sext, h]

theorem pow_width_split {n : Nat} (h : 1 ≤ n) : (2 : Int) ^ n = 2 * 2 ^ (n - 1) := by
  obtain ⟨m, rfl⟩ := Nat.exists_eq_add_of_le' h
  simp [pow_succ, mul_comm]

/-- `sext_N` gives back every value that fits `n` bits signed (R12). -/
theorem sext_emod {n : Nat} (h : 1 ≤ n) {v : Int} (h1 : -(2 ^ (n - 1)) ≤ v) (h2 : v < 2 ^ (n - 1)) :
    sext n (v % 2 ^ n).toNat = v := by
  have hw := pow_width_split h
  have hpos : (0 : Int) < 2 ^ (n - 1) := by positivity
  have hc : ((2 ^ (n - 1) : Nat) : Int) = 2 ^ (n - 1) := by push_cast; rfl
  rcases lt_or_ge v 0 with hv | hv
  · have e : v % 2 ^ n = v + 2 ^ n := by
      rw [← Int.add_emod_right]
      exact Int.emod_eq_of_lt (by omega) (by omega)
    unfold sext
    rw [e, if_neg (by omega)]
    omega
  · have e : v % 2 ^ n = v := Int.emod_eq_of_lt hv (by omega)
    unfold sext
    rw [e, if_pos (by omega)]
    omega

/-- A value that fits is read back from the register it is written to (R13). -/
theorem regVal_regOfVal {c : Config} (hL : 1 ≤ c.limbs) {v : Int} (hv : fits c v) :
    regVal (regOfVal c.limbs v) = v := by
  have hpos : (0 : Int) < 2 ^ (32 * c.limbs) := by positivity
  have hlt := Int.emod_lt_of_pos v hpos
  have h0 := Int.emod_nonneg v hpos.ne'
  have hc : ((2 ^ (32 * c.limbs) : Nat) : Int) = 2 ^ (32 * c.limbs) := by push_cast; rfl
  unfold regVal regOfVal
  rw [regBits_regOfBits _ _ (by omega), regOfBits_length]
  exact sext_emod (by omega) hv.1 hv.2

/-- Every register of `L ≥ 1` limbs holds a value that fits (R13). -/
theorem regVal_fits {c : Config} (hL : 1 ≤ c.limbs) {r : Reg} (hr : r.length = c.limbs) : fits c (regVal r) := by
  have hb := regBits_lt r
  have hw := pow_width_split (n := 32 * c.limbs) (by omega)
  have hc : ((2 ^ (32 * c.limbs - 1) : Nat) : Int) = 2 ^ (32 * c.limbs - 1) := by push_cast; rfl
  have hd : ((2 ^ (32 * c.limbs) : Nat) : Int) = 2 ^ (32 * c.limbs) := by push_cast; rfl
  rw [hr] at hb
  unfold regVal sext fits Config.width
  rw [hr]
  split <;> constructor <;> omega

theorem zero_fits (c : Config) : fits c 0 := by
  have : (0 : Int) < 2 ^ (c.width - 1) := by positivity
  exact ⟨by omega, this⟩

/-- A value between 0 and a value that fits, fits. -/
theorem fits_of_between {c : Config} {u v : Int} (hv : fits c v) (h0 : 0 ≤ u) (h1 : u ≤ v) : fits c u := by
  have : (0 : Int) < 2 ^ (c.width - 1) := by positivity
  exact ⟨by omega, by have := hv.2; omega⟩

/-- 0 and 1 fit every register (R16). -/
theorem one_fits {c : Config} (hL : 1 ≤ c.limbs) : fits c 1 := by
  have h : (2 : Int) ^ 1 ≤ 2 ^ (c.width - 1) := by
    apply pow_le_pow_right₀ (by norm_num)
    unfold Config.width; omega
  constructor <;> omega

theorem State.xval_setX_self (s : State) (i : XIdx) {v : Int} (hL : 1 ≤ s.cfg.limbs) (hv : fits s.cfg v) :
    (s.setX i v).xval i = v := by
  simp [State.xval, regVal_regOfVal hL hv]

theorem State.x_setX_other (s : State) {i j : XIdx} (v : Int) (h : j ≠ i) :
    (s.setX i v).x[j.val] = s.x[j.val] := by
  have : i.val ≠ j.val := fun e => h (Fin.ext e.symm)
  simp [this]

theorem State.xval_setX_other (s : State) {i j : XIdx} (v : Int) (h : j ≠ i) : (s.setX i v).xval j = s.xval j := by
  unfold State.xval; rw [s.x_setX_other v h]

theorem State.point_setPoint_self (s : State) (i : PIdx) (P : Point) : (s.setPoint i P).point i = P := by
  simp [State.point]

theorem State.point_setPoint_other (s : State) {i j : PIdx} (P : Point) (h : j ≠ i) :
    (s.setPoint i P).point j = s.point j := by
  have : i.val ≠ j.val := fun e => h (Fin.ext e.symm)
  simp [State.point, this]

@[simp] theorem State.point_setX (s : State) (i : XIdx) (v : Int) (j : PIdx) : (s.setX i v).point j = s.point j := rfl

@[simp] theorem State.xval_setPoint (s : State) (i : PIdx) (P : Point) (j : XIdx) :
    (s.setPoint i P).xval j = s.xval j := rfl

@[simp] theorem State.point_setContext (s : State) (c : Curve) (b : Bool) (i : PIdx) :
    (s.setContext c b).point i = .inf := by
  simp [State.point]

@[simp] theorem State.xval_setContext (s : State) (c : Curve) (b : Bool) (i : XIdx) :
    (s.setContext c b).xval i = s.xval i := rfl

@[simp] theorem State.xval_finish (s : State) (r : Run) (c : Code) (i : XIdx) : (s.finish r c).xval i = s.xval i := rfl

@[simp] theorem State.point_finish (s : State) (r : Run) (c : Code) (i : PIdx) : (s.finish r c).point i = s.point i := rfl

/-- In a state of the invariant every register's value fits. -/
theorem State.Inv.xval_fits {s : State} (h : s.Inv) (i : XIdx) : fits s.cfg (s.xval i) :=
  regVal_fits h.legal.1 (h.regLength i)

/-- R36: a limb that was written is read back. -/
theorem State.limb?_setLimb_self (s : State) (i : XIdx) (j : Nat) (v : Limb) (hj : j < s.cfg.limbs)
    (hr : (s.x[i.val]).length = s.cfg.limbs) : (s.setLimb i j v).limb? i j = some v := by
  simp [State.limb?, hj, hr]

/-- R36: the other limbs of a register are unchanged by a limb write. -/
theorem State.limb?_setLimb_other (s : State) (i : XIdx) {j k : Nat} (v : Limb) (h : k ≠ j) :
    (s.setLimb i j v).limb? i k = s.limb? i k := by
  simp [State.limb?, Ne.symm h]

/-- R36: the other registers are unchanged by a limb write. -/
theorem State.x_setLimb_other (s : State) {i k : XIdx} (j : Nat) (v : Limb) (h : k ≠ i) :
    (s.setLimb i j v).x[k.val] = s.x[k.val] := by
  have : i.val ≠ k.val := fun e => h (Fin.ext e.symm)
  simp [this]

end Sys2Proof.Machine
end

