-- ==== Sys2Proof/Laws/Ops.lean ====
section
/-! SUPPORT. What the shared operations of Machine/Ops.lean can do: the checks, the commit, the ends of a command. Every
meaning is one `State.execute`, so these say once what every command can do. -/

namespace Sys2Proof.Machine

/-! ### The shared checks (R282 to R285) -/

theorem State.checked_fatal {s : State} (h : s.fatal = true) (l n : Bool) (b : Run) :
    s.checked l n b = Run.raised .eFatal := by
  simp [State.checked, h]

theorem State.checked_illegal {s : State} (h : s.fatal = false) (n : Bool) (b : Run) :
    s.checked false n b = Run.raised .eIllegal := by
  simp [State.checked, h]

theorem State.checked_noCurve {s : State} (h : s.fatal = false) (hc : s.cv = false) (b : Run) :
    s.checked true true b = Run.raised .eNoCurve := by
  simp [State.checked, h, hc]

theorem State.checked_plain {s : State} (h : s.fatal = false) (b : Run) : s.checked true false b = b := by
  simp [State.checked, h]

theorem State.checked_curve {s : State} (h : s.fatal = false) (hc : s.cv = true) (b : Run) :
    s.checked true true b = b := by
  simp [State.checked, h, hc]

/-- Everything the shared checks can answer. -/
theorem State.checked_cases (s : State) (l n : Bool) (b : Run) :
    (s.fatal = true ∧ s.checked l n b = Run.raised .eFatal) ∨
    (s.fatal = false ∧ l = false ∧ s.checked l n b = Run.raised .eIllegal) ∨
    (s.fatal = false ∧ l = true ∧ n = true ∧ s.cv = false ∧ s.checked l n b = Run.raised .eNoCurve) ∨
    (s.fatal = false ∧ l = true ∧ (n = true → s.cv = true) ∧ s.checked l n b = b) := by
  unfold State.checked
  cases hf : s.fatal <;> cases l <;> cases n <;> cases hc : s.cv <;> simp

/-! ### The commit (R45) -/

theorem State.foldl_setX_eq (l : List (XIdx × Int)) (s : State) :
    ∃ x', l.foldl (fun t p => t.setX p.1 p.2) s = { s with x := x' } := by
  induction l generalizing s with
  | nil => exact ⟨s.x, rfl⟩
  | cons p l ih =>
    obtain ⟨x', h⟩ := ih (s.setX p.1 p.2)
    exact ⟨x', h⟩

theorem State.foldl_setPoint_eq (l : List (PIdx × Point)) (s : State) :
    ∃ pt', l.foldl (fun t p => t.setPoint p.1 p.2) s = { s with pt := pt' } := by
  induction l generalizing s with
  | nil => exact ⟨s.pt, rfl⟩
  | cons p l ih =>
    obtain ⟨pt', h⟩ := ih (s.setPoint p.1 p.2)
    exact ⟨pt', h⟩

/-- A commit writes registers, points and the context only; the context only where the command says so. -/
theorem State.commit_eq (s : State) (w : Writes) :
    ∃ x' pt' c' b', s.commit w = { s with x := x', pt := pt', crv := c', cv := b' } ∧
      (w.context = none → c' = s.crv ∧ b' = s.cv) := by
  unfold State.commit
  cases hw : w.context with
  | none =>
    obtain ⟨x', hx⟩ := State.foldl_setX_eq w.x s
    obtain ⟨pt', hp⟩ := State.foldl_setPoint_eq w.pt { s with x := x' }
    exact ⟨x', pt', s.crv, s.cv, by simp only [hx, hp], fun _ => ⟨rfl, rfl⟩⟩
  | some cb =>
    obtain ⟨x', hx⟩ := State.foldl_setX_eq w.x (s.setContext cb.1 cb.2)
    obtain ⟨pt', hp⟩ := State.foldl_setPoint_eq w.pt { s.setContext cb.1 cb.2 with x := x' }
    refine ⟨x', pt', cb.1, cb.2, ?_, by simp⟩
    simp only [hx, hp]
    rfl

theorem State.foldl_setX_other (l : List (XIdx × Int)) (s : State) {i : XIdx} (h : i ∉ l.map Prod.fst) :
    (l.foldl (fun t p => t.setX p.1 p.2) s).x[i.val] = s.x[i.val] := by
  induction l generalizing s with
  | nil => rfl
  | cons p l ih =>
    simp only [List.map_cons, List.mem_cons, not_or] at h
    rw [List.foldl_cons, ih _ h.2, s.x_setX_other _ h.1]

theorem State.foldl_setX_cfg (l : List (XIdx × Int)) (s : State) :
    (l.foldl (fun t p => t.setX p.1 p.2) s).cfg = s.cfg := by
  obtain ⟨x', h⟩ := State.foldl_setX_eq l s; rw [h]

theorem State.foldl_setX_mem (l : List (XIdx × Int)) (s : State) (hL : 1 ≤ s.cfg.limbs)
    (hn : (l.map Prod.fst).Nodup) {p : XIdx × Int} (hp : p ∈ l) (hf : fits s.cfg p.2) :
    (l.foldl (fun t p => t.setX p.1 p.2) s).xval p.1 = p.2 := by
  induction l generalizing s with
  | nil => simp at hp
  | cons q l ih =>
    simp only [List.map_cons, List.nodup_cons] at hn
    rw [List.foldl_cons]
    rcases List.mem_cons.1 hp with rfl | hp
    · have e := State.foldl_setX_other l (s.setX p.1 p.2) hn.1
      unfold State.xval
      rw [e]
      exact s.xval_setX_self p.1 hL hf
    · exact ih (s.setX q.1 q.2) (by simpa using hL) hn.2 hp (by simpa using hf)

theorem State.foldl_setPoint_other (l : List (PIdx × Point)) (s : State) {i : PIdx} (h : i ∉ l.map Prod.fst) :
    (l.foldl (fun t p => t.setPoint p.1 p.2) s).point i = s.point i := by
  induction l generalizing s with
  | nil => rfl
  | cons p l ih =>
    simp only [List.map_cons, List.mem_cons, not_or] at h
    rw [List.foldl_cons, ih _ h.2, s.point_setPoint_other _ h.1]

/-- A commit leaves every integer register it does not name. -/
theorem State.x_commit_other (s : State) (w : Writes) {i : XIdx} (h : i ∉ w.x.map Prod.fst) :
    (s.commit w).x[i.val] = s.x[i.val] := by
  have hp := fun t => State.foldl_setPoint_eq w.pt t
  unfold State.commit
  cases w.context with
  | none =>
    obtain ⟨pt', e⟩ := hp (w.x.foldl (fun t p => t.setX p.1 p.2) s)
    simp only [e]
    exact State.foldl_setX_other w.x s h
  | some cb =>
    obtain ⟨pt', e⟩ := hp (w.x.foldl (fun t p => t.setX p.1 p.2) (s.setContext cb.1 cb.2))
    simp only [e]
    exact State.foldl_setX_other w.x _ h

/-- Without a context write, a commit leaves every point register it does not name. -/
theorem State.point_commit_other (s : State) (w : Writes) (hw : w.context = none) {i : PIdx}
    (h : i ∉ w.pt.map Prod.fst) : (s.commit w).point i = s.point i := by
  unfold State.commit
  rw [hw]
  simp only
  rw [State.foldl_setPoint_other _ _ h]
  obtain ⟨x', e⟩ := State.foldl_setX_eq w.x s
  rw [e]; rfl

/-- What a commit writes to an integer register is read back. -/
theorem State.xval_commit (s : State) (w : Writes) (hL : 1 ≤ s.cfg.limbs) (hn : (w.x.map Prod.fst).Nodup)
    (hf : w.fit s.cfg) {p : XIdx × Int} (hp : p ∈ w.x) : (s.commit w).xval p.1 = p.2 := by
  unfold State.commit
  cases w.context with
  | none =>
    obtain ⟨pt', e⟩ := State.foldl_setPoint_eq w.pt (w.x.foldl (fun t p => t.setX p.1 p.2) s)
    simp only [e]
    exact State.foldl_setX_mem w.x s hL hn hp (hf p hp)
  | some cb =>
    obtain ⟨pt', e⟩ := State.foldl_setPoint_eq w.pt (w.x.foldl (fun t p => t.setX p.1 p.2) (s.setContext cb.1 cb.2))
    simp only [e]
    exact State.foldl_setX_mem w.x (s.setContext cb.1 cb.2) hL hn hp (hf p hp)

/-- A commit of one integer register. -/
@[simp] theorem State.commit_one_x (s : State) (rd : XIdx) (v : Int) : s.commit { x := [(rd, v)] } = s.setX rd v := rfl

/-- A commit of one point register. -/
@[simp] theorem State.commit_one_point (s : State) (pd : PIdx) (P : Point) :
    s.commit { pt := [(pd, P)] } = s.setPoint pd P := rfl

/-- A commit of nothing. -/
@[simp] theorem State.commit_nothing (s : State) : s.commit {} = s := rfl

/-! ### The ends of a command (R14, R45, R280, R288) -/

/-- The frame of a completing command that does not write the context. -/
theorem State.completedOk_commit (s : State) (w : Writes) (r : Run) (hw : w.context = none) :
    s.CompletedOk ((s.commit w).finish r .ok) (w.x.map Prod.fst) (w.pt.map Prod.fst) r.draws := by
  have hx := fun (i : XIdx) h => s.x_commit_other w (i := i) h
  have hp := fun (i : PIdx) h => s.point_commit_other w hw (i := i) h
  obtain ⟨x', pt', c', b', e, hc⟩ := s.commit_eq w
  rw [e] at hx hp ⊢
  obtain ⟨rfl, rfl⟩ := hc hw
  exact
    { ended := ⟨rfl, rfl, rfl⟩
      control := ⟨rfl, rfl, rfl, rfl, rfl, rfl, rfl, rfl, rfl⟩
      fatal := rfl
      context := ⟨rfl, rfl⟩
      xregs := hx
      points := hp
      draws := rfl }

/-- A non-OK end writes nothing (R280, R288). -/
theorem State.wroteNothing_raise (s : State) (r : Run) (c : Code) (h : r.draws = 0) :
    s.WroteNothing (s.raise r c) c :=
  { ended := ⟨rfl, rfl, rfl⟩
    control := ⟨rfl, rfl, rfl, rfl, rfl, rfl, rfl, rfl, rfl⟩
    context := ⟨rfl, rfl⟩
    xregs := rfl
    points := rfl
    draws := by simp [h] }

/-- The fatal end writes nothing either (R290). -/
theorem State.wroteNothing_raiseFatal (s : State) (r : Run) (h : r.draws = 0) :
    s.WroteNothing (s.raiseFatal r) .divisionByZero :=
  { ended := ⟨rfl, rfl, rfl⟩
    control := ⟨rfl, rfl, rfl, rfl, rfl, rfl, rfl, rfl, rfl⟩
    context := ⟨rfl, rfl⟩
    xregs := rfl
    points := rfl
    draws := by simp [h] }

/-- Everything the end of a run can be. -/
theorem State.conclude_cases (s : State) (r : Run) :
    (∃ w, r.ending = .complete w ∧ w.fit s.cfg ∧ s.conclude r = (s.commit w).finish r .ok) ∨
    (∃ w, r.ending = .complete w ∧ ¬ w.fit s.cfg ∧ s.conclude r = s.raise r .eOverflow) ∨
    (∃ c, r.ending = .raise c ∧ s.conclude r = s.raise r c) ∨
    (r.ending = .fatalDivisionByZero ∧ s.conclude r = s.raiseFatal r) := by
  unfold State.conclude
  cases h : r.ending with
  | complete w =>
    by_cases hw : w.fit s.cfg
    · exact .inl ⟨w, rfl, hw, by simp only [if_pos hw]⟩
    · exact .inr (.inl ⟨w, rfl, hw, by simp only [if_neg hw]⟩)
  | raise c => exact .inr (.inr (.inl ⟨c, rfl, rfl⟩))
  | fatalDivisionByZero => exact .inr (.inr (.inr ⟨rfl, rfl⟩))

theorem State.conclude_complete {s : State} {r : Run} {w : Writes} (h : r.ending = .complete w) (hw : w.fit s.cfg) :
    s.conclude r = (s.commit w).finish r .ok := by
  simp only [State.conclude, h, if_pos hw]

theorem State.conclude_raise {s : State} {r : Run} {c : Code} (h : r.ending = .raise c) :
    s.conclude r = s.raise r c := by
  simp only [State.conclude, h]

theorem State.conclude_fatal {s : State} {r : Run} (h : r.ending = .fatalDivisionByZero) :
    s.conclude r = s.raiseFatal r := by
  simp only [State.conclude, h]

/-- Every command is one `execute`: its legality (R97), whether it looks at the curve (R285), and its own run. -/
theorem exec_eq_execute (i : Instr) (s : State) :
    ∃ body, exec i s = s.execute i.wellFormed (needsCurve i) body := by
  cases i <;> exact ⟨_, rfl⟩

end Sys2Proof.Machine
end

