-- ==== Sys2Proof/Laws/Commands.lean ====
section
/-! SUPPORT. The commands one level above `State.execute`: each command's own run as a function of the state, how a command
completes or raises, and the invariant of State under the shared updates. -/

namespace Sys2Proof.Machine

/-- A command's own run, without the shared checks (steps 4 and 5 of R283). -/
def bodyOf (i : Instr) (s : State) : Run :=
  match i with
  | .nop => { ending := .complete {}, trace := s.freeTrace i }
  | .clear => { ending := .complete clearWrites, trace := s.freeTrace i }
  | .mov rd rs => { ending := .complete { x := [(rd, s.xval rs)] }, trace := s.freeTrace i }
  | .gcd rd ra rb =>
    { ending := .complete { x := [(rd, (gcdValue (s.xval ra).natAbs (s.xval rb).natAbs : Int))] }
      trace := s.freeTrace i }
  | .xgcd rg rx ry ra rb => xgcdRun rg rx ry (s.xval ra) (s.xval rb) (s.freeTrace i)
  | .modinv rd ra rn => modinvRun rd (s.xval ra) (s.xval rn) (s.freeTrace i)
  | .modpow rd rb re rm => powRun rd modPow (s.xval rb) (s.xval re) (s.xval rm)
  | .modpowct rd rb re rm => powRun rd modPowCt (s.xval rb) (s.xval re) (s.xval rm)
  | .totient rd rp rq =>
    { ending := .complete { x := [(rd, (s.xval rp - 1) * (s.xval rq - 1))] }, trace := s.freeTrace i }
  | .mrtest rd rn imm8 => mrtestRun rd (s.xval rn) (roundsOf imm8) s.env.answer
  | .modadd rd ra rb rm => reduceRun rd (s.xval ra + s.xval rb) (s.xval rm) (s.freeTrace i)
  | .modsub rd ra rb rm => reduceRun rd (s.xval ra - s.xval rb) (s.xval rm) (s.freeTrace i)
  | .modmul rd ra rb rm => reduceRun rd (s.xval ra * s.xval rb) (s.xval rm) (s.freeTrace i)
  | .modsqrt rd ra rp => modsqrtRun rd (s.xval ra) (s.xval rp) (s.freeTrace i)
  | .curve ra rb rp => curveRun (s.xval ra) (s.xval rb) (s.xval rp) (s.freeTrace i)
  | .oncurve rd rx ry =>
    { ending := .complete { x := [(rd, if onCurve s.crv (s.xval rx) (s.xval ry) then 1 else 0)] }
      trace := s.freeTrace i }
  | .pload pd rx ry => ploadRun pd s.crv (s.xval rx) (s.xval ry) (s.freeTrace i)
  | .pinf pd => { ending := .complete { pt := [(pd, .inf)] }, trace := s.freeTrace i }
  | .pstore rdx rdy ps =>
    { ending := .complete { x := [(rdx, (s.point ps).stored.2.1), (rdy, (s.point ps).stored.2.2)] }
      trace := s.freeTrace i }
  | .pmov pd ps => { ending := .complete { pt := [(pd, s.point ps)] }, trace := s.freeTrace i }
  | .pneg pd ps => { ending := .complete { pt := [(pd, pneg s.crv (s.point ps))] }, trace := s.freeTrace i }
  | .padd pd ps1 ps2 => pointRun pd .padd (padd s.crv (s.point ps1) (s.point ps2))
  | .pdbl pd ps => pointRun pd .pdbl (pdbl s.crv (s.point ps))
  | .smul pd rk ps => smulRun pd s.crv (s.xval rk) (s.point ps)
  | .smulct pd rk ps => smulctRun pd s.crv (s.xval rk) (s.point ps)
  | .porder rd ps rmax => porderRun rd s.crv (s.point ps) (s.xval rmax)

/-- Every command is one `execute` of its own run. -/
theorem exec_eq (i : Instr) (s : State) :
    exec i s = s.execute i.wellFormed (needsCurve i) (bodyOf i s) := by
  cases i <;> rfl

/-- A command always answers a next state (R331). -/
theorem exec_next (i : Instr) (s : State) :
    exec i s = .next (s.conclude (s.checked i.wellFormed (needsCurve i) (bodyOf i s))) := exec_eq i s

/-- The premises under which a command's own run is reached (R282, R284, R285). -/
theorem exec_reached {i : Instr} {s : State} (hf : s.fatal = false) (hw : i.wellFormed = true)
    (hc : needsCurve i = true → s.cv = true) : exec i s = .next (s.conclude (bodyOf i s)) := by
  rw [exec_next]
  cases hn : needsCurve i
  · rw [hw, s.checked_plain hf]
  · rw [hw, s.checked_curve hf (hc hn)]

/-- A command whose own run completes with results that fit. -/
theorem exec_completes {i : Instr} {s : State} {w : Writes} (hf : s.fatal = false) (hw : i.wellFormed = true)
    (hc : needsCurve i = true → s.cv = true) (he : (bodyOf i s).ending = .complete w) (hfit : w.fit s.cfg) :
    exec i s = .next ((s.commit w).finish (bodyOf i s) .ok) := by
  rw [exec_reached hf hw hc, State.conclude_complete he hfit]

/-- A command whose own run raises. -/
theorem exec_raises {i : Instr} {s : State} {c : Code} (hf : s.fatal = false) (hw : i.wellFormed = true)
    (hc : needsCurve i = true → s.cv = true) (he : (bodyOf i s).ending = .raise c) (hd : (bodyOf i s).draws = 0) :
    Raises i s c :=
  ⟨_, by rw [exec_reached hf hw hc, State.conclude_raise he], s.wroteNothing_raise _ _ hd, rfl⟩

/-- A command whose result does not fit (R286). -/
theorem exec_overflows {i : Instr} {s : State} {w : Writes} (hf : s.fatal = false) (hw : i.wellFormed = true)
    (hc : needsCurve i = true → s.cv = true) (he : (bodyOf i s).ending = .complete w) (hfit : ¬ w.fit s.cfg)
    (hd : (bodyOf i s).draws = 0) : Raises i s .eOverflow := by
  refine ⟨_, ?_, s.wroteNothing_raise (bodyOf i s) _ hd, rfl⟩
  rw [exec_reached hf hw hc]
  simp only [State.conclude, he, if_neg hfit]

/-- A command stopped by one of the shared checks. -/
theorem exec_refused {i : Instr} {s : State} {c : Code}
    (h : s.checked i.wellFormed (needsCurve i) (bodyOf i s) = Run.raised c) : Raises i s c :=
  ⟨_, by rw [exec_next, h, State.conclude_raise rfl], s.wroteNothing_raise _ _ rfl, rfl⟩

/-! ### A command's outcome depends on what the registers hold, and on nothing else (R326) -/

theorem State.SameContents.foldl_setX {s u : State} (h : s.SameContents u) (l : List (XIdx × Int)) :
    (l.foldl (fun t p => t.setX p.1 p.2) s).SameContents (l.foldl (fun t p => t.setX p.1 p.2) u) := by
  induction l generalizing s u with
  | nil => exact h
  | cons p l ih => exact ih ⟨h.cfg, by simp [h.x, h.cfg], h.pt, h.crv, h.cv, h.fatal⟩

theorem State.SameContents.foldl_setPoint {s u : State} (h : s.SameContents u) (l : List (PIdx × Point)) :
    (l.foldl (fun t p => t.setPoint p.1 p.2) s).SameContents (l.foldl (fun t p => t.setPoint p.1 p.2) u) := by
  induction l generalizing s u with
  | nil => exact h
  | cons p l ih => exact ih ⟨h.cfg, h.x, by simp [h.pt], h.crv, h.cv, h.fatal⟩

theorem State.SameContents.commit {s u : State} (h : s.SameContents u) (w : Writes) :
    (s.commit w).SameContents (u.commit w) := by
  refine State.SameContents.foldl_setPoint (State.SameContents.foldl_setX ?_ w.x) w.pt
  cases w.context with
  | none => exact h
  | some c => exact ⟨h.cfg, h.x, rfl, rfl, rfl, h.fatal⟩

/-- The end of a run keeps equal contents equal, with one code and one trace. -/
theorem State.SameContents.conclude {s u : State} (h : s.SameContents u) (r : Run) :
    (s.conclude r).SameContents (u.conclude r) ∧ (u.conclude r).code = (s.conclude r).code ∧
      (u.conclude r).trace = (s.conclude r).trace := by
  have k : ∀ {a b : State} (c : Code), a.SameContents b → (a.finish r c).SameContents (b.finish r c) :=
    fun _ q => ⟨q.cfg, q.x, q.pt, q.crv, q.cv, q.fatal⟩
  unfold State.conclude
  cases r.ending with
  | complete w =>
    simp only [h.cfg]
    split
    · exact ⟨k _ (h.commit w), rfl, rfl⟩
    · exact ⟨k _ h, rfl, rfl⟩
  | raise c => exact ⟨k _ h, rfl, rfl⟩
  | fatalDivisionByZero => exact ⟨⟨h.cfg, h.x, h.pt, h.crv, h.cv, rfl⟩, rfl, rfl⟩

/-- The same command on the same contents makes the same run; MRTEST needs the same answers of the random source too. -/
theorem State.SameContents.bodyOf {s u : State} (h : s.SameContents u) {i : Instr}
    (hm : ∀ rd rn imm8, i = .mrtest rd rn imm8 → u.env.answer = s.env.answer) : bodyOf i u = bodyOf i s := by
  obtain ⟨-, h2, h3, h4, -, -⟩ := h
  have hx : u.xval = s.xval := by funext j; simp only [State.xval, h2]
  have hp : u.point = s.point := by funext j; simp only [State.point, h3]
  have hf : u.freeTrace = s.freeTrace := by funext j; simp only [State.freeTrace, h2, h3, h4]
  cases i with
  | mrtest rd rn imm8 => simp only [Machine.bodyOf, hx, hm rd rn imm8 rfl]
  | _ => simp only [Machine.bodyOf, hx, hp, hf, h4]

/-- R326: the same command on the same contents ends with the same code and trace, and leaves the same contents; MRTEST does
when it gets the same answers of the random source. -/
theorem exec_same_outcome {s u : State} (h : s.SameContents u) (i : Instr)
    (hm : ∀ rd rn imm8, i = .mrtest rd rn imm8 → u.env.answer = s.env.answer) :
    ∃ t v, exec i s = .next t ∧ exec i u = .next v ∧ t.SameContents v ∧ v.code = t.code ∧ v.trace = t.trace := by
  have hc : u.checked i.wellFormed (needsCurve i) (bodyOf i u) = s.checked i.wellFormed (needsCurve i) (bodyOf i s) := by
    simp only [State.checked, h.fatal, h.cv, h.bodyOf hm]
  refine ⟨_, _, exec_next i s, exec_next i u, ?_⟩
  rw [hc]
  exact h.conclude _

/-! ### The invariant under the shared updates -/

theorem Point.Reduced.inf {c : Curve} : Point.Reduced c .inf := trivial

/-- A write of an integer register keeps the invariant. -/
theorem State.Inv.setX {s : State} (h : s.Inv) (i : XIdx) (v : Int) : (s.setX i v).Inv :=
  { h with
    regLength := by
      intro j
      by_cases e : j = i
      · subst e; simp
      · rw [s.x_setX_other v e]; exact h.regLength j
    unbound := h.unbound
    reduced := h.reduced }

/-- A write of a reduced point to a point register keeps the invariant, on a bound curve. -/
theorem State.Inv.setPoint {s : State} (h : s.Inv) (hc : s.cv = true) (i : PIdx) {P : Point} (hP : P.Reduced s.crv) :
    (s.setPoint i P).Inv :=
  { h with
    unbound := fun hu => absurd (hc.symm.trans hu) (by simp)
    reduced := by
      intro j
      by_cases e : j = i
      · subst e; rw [s.point_setPoint_self]; exact hP
      · rw [s.point_setPoint_other P e]; exact h.reduced j }

/-- The issue of a command keeps the invariant (R46). -/
theorem State.Inv.issue {s : State} (h : s.Inv) (w : Word) : (s.issue w).Inv :=
  { h with
    pending := fun _ hw => ⟨Option.some.inj hw, rfl, rfl⟩
    noHostCode := rfl
    unbound := h.unbound
    reduced := h.reduced }

/-- The end of a command keeps the invariant (R45). -/
theorem State.Inv.finish {s : State} (h : s.Inv) (r : Run) {c : Code} (hc : c.isHost = false) : (s.finish r c).Inv :=
  { h with
    pending := fun _ hw => by cases hw
    noHostCode := hc
    unbound := h.unbound
    reduced := h.reduced }

/-- Nothing in the outside world is part of the invariant. -/
theorem State.Inv.withEnv {s : State} (h : s.Inv) (e : Env) : State.Inv { s with env := e } :=
  { h with unbound := h.unbound, reduced := h.reduced }

end Sys2Proof.Machine
end

