-- ==== Sys2Proof/Laws/PerInstr.lean ====
section
/-! SUPPORT. The family OpByte: the top byte of every command's encoding is its row's `op` (R91, R92, R95, R101). -/

namespace Sys2Proof.Laws.OpByte

/-- The encoding of `i` has the `op` of its row in bits 31:24. -/
def Statement (i : Instr) : Prop := (fieldsOf (encode i)).op = i.opcode.byte

theorem nop  : Statement (.nop) := by
  simp only [Statement, encode, fieldsOf, packR, Instr.opcode, Opcode.byte, BitVec.toNat_ofNat]
  omega

theorem clear  : Statement (.clear) := by
  simp only [Statement, encode, fieldsOf, packR, Instr.opcode, Opcode.byte, BitVec.toNat_ofNat]
  omega

theorem mov (rd rs : XIdx) : Statement (.mov rd rs) := by
  simp only [Statement, encode, fieldsOf, packR, Instr.opcode, Opcode.byte, BitVec.toNat_ofNat]
  omega

theorem gcd (rd ra rb : XIdx) : Statement (.gcd rd ra rb) := by
  simp only [Statement, encode, fieldsOf, packR, Instr.opcode, Opcode.byte, BitVec.toNat_ofNat]
  omega

theorem xgcd (rg rx ry ra rb : XIdx) : Statement (.xgcd rg rx ry ra rb) := by
  simp only [Statement, encode, fieldsOf, packR, Instr.opcode, Opcode.byte, BitVec.toNat_ofNat]
  omega

theorem modinv (rd ra rn : XIdx) : Statement (.modinv rd ra rn) := by
  simp only [Statement, encode, fieldsOf, packR, Instr.opcode, Opcode.byte, BitVec.toNat_ofNat]
  omega

theorem modpow (rd rb re rm : XIdx) : Statement (.modpow rd rb re rm) := by
  simp only [Statement, encode, fieldsOf, packR, Instr.opcode, Opcode.byte, BitVec.toNat_ofNat]
  omega

theorem modpowct (rd rb re rm : XIdx) : Statement (.modpowct rd rb re rm) := by
  simp only [Statement, encode, fieldsOf, packR, Instr.opcode, Opcode.byte, BitVec.toNat_ofNat]
  omega

theorem totient (rd rp rq : XIdx) : Statement (.totient rd rp rq) := by
  simp only [Statement, encode, fieldsOf, packR, Instr.opcode, Opcode.byte, BitVec.toNat_ofNat]
  omega

theorem mrtest (rd rn : XIdx) (imm8 : BitVec 8) : Statement (.mrtest rd rn imm8) := by
  simp only [Statement, encode, fieldsOf, packI, Instr.opcode, Opcode.byte, BitVec.toNat_ofNat]
  omega

theorem modadd (rd ra rb rm : XIdx) : Statement (.modadd rd ra rb rm) := by
  simp only [Statement, encode, fieldsOf, packR, Instr.opcode, Opcode.byte, BitVec.toNat_ofNat]
  omega

theorem modsub (rd ra rb rm : XIdx) : Statement (.modsub rd ra rb rm) := by
  simp only [Statement, encode, fieldsOf, packR, Instr.opcode, Opcode.byte, BitVec.toNat_ofNat]
  omega

theorem modmul (rd ra rb rm : XIdx) : Statement (.modmul rd ra rb rm) := by
  simp only [Statement, encode, fieldsOf, packR, Instr.opcode, Opcode.byte, BitVec.toNat_ofNat]
  omega

theorem modsqrt (rd ra rp : XIdx) : Statement (.modsqrt rd ra rp) := by
  simp only [Statement, encode, fieldsOf, packR, Instr.opcode, Opcode.byte, BitVec.toNat_ofNat]
  omega

theorem curve (ra rb rp : XIdx) : Statement (.curve ra rb rp) := by
  simp only [Statement, encode, fieldsOf, packR, Instr.opcode, Opcode.byte, BitVec.toNat_ofNat]
  omega

theorem oncurve (rd rx ry : XIdx) : Statement (.oncurve rd rx ry) := by
  simp only [Statement, encode, fieldsOf, packR, Instr.opcode, Opcode.byte, BitVec.toNat_ofNat]
  omega

theorem pload (pd : PIdx) (rx ry : XIdx) : Statement (.pload pd rx ry) := by
  simp only [Statement, encode, fieldsOf, packR, Instr.opcode, Opcode.byte, BitVec.toNat_ofNat]
  omega

theorem pinf (pd : PIdx) : Statement (.pinf pd) := by
  simp only [Statement, encode, fieldsOf, packR, Instr.opcode, Opcode.byte, BitVec.toNat_ofNat]
  omega

theorem pstore (rdx rdy : XIdx) (ps : PIdx) : Statement (.pstore rdx rdy ps) := by
  simp only [Statement, encode, fieldsOf, packR, Instr.opcode, Opcode.byte, BitVec.toNat_ofNat]
  omega

theorem pmov (pd ps : PIdx) : Statement (.pmov pd ps) := by
  simp only [Statement, encode, fieldsOf, packR, Instr.opcode, Opcode.byte, BitVec.toNat_ofNat]
  omega

theorem pneg (pd ps : PIdx) : Statement (.pneg pd ps) := by
  simp only [Statement, encode, fieldsOf, packR, Instr.opcode, Opcode.byte, BitVec.toNat_ofNat]
  omega

theorem padd (pd ps1 ps2 : PIdx) : Statement (.padd pd ps1 ps2) := by
  simp only [Statement, encode, fieldsOf, packR, Instr.opcode, Opcode.byte, BitVec.toNat_ofNat]
  omega

theorem pdbl (pd ps : PIdx) : Statement (.pdbl pd ps) := by
  simp only [Statement, encode, fieldsOf, packR, Instr.opcode, Opcode.byte, BitVec.toNat_ofNat]
  omega

theorem smul (pd : PIdx) (rk : XIdx) (ps : PIdx) : Statement (.smul pd rk ps) := by
  simp only [Statement, encode, fieldsOf, packR, Instr.opcode, Opcode.byte, BitVec.toNat_ofNat]
  omega

theorem smulct (pd : PIdx) (rk : XIdx) (ps : PIdx) : Statement (.smulct pd rk ps) := by
  simp only [Statement, encode, fieldsOf, packR, Instr.opcode, Opcode.byte, BitVec.toNat_ofNat]
  omega

theorem porder (rd : XIdx) (ps : PIdx) (rmax : XIdx) : Statement (.porder rd ps rmax) := by
  simp only [Statement, encode, fieldsOf, packR, Instr.opcode, Opcode.byte, BitVec.toNat_ofNat]
  omega

end Sys2Proof.Laws.OpByte
end

