-- ==== Sys2Proof/Laws/Step.lean ====
section
/-! SUPPORT. What one step can do: the engine's turn, a bus access, or a change of the reset input (R45, R69). -/

namespace Sys2Proof.Machine

theorem step_no_input {s : State} (h : s.env.inputs = []) : step s = engineTurn s := by
  simp only [step, h]

theorem step_input {s : State} {i : Input} {l : List Input} (h : s.env.inputs = i :: l) :
    step s = applyInput i (s.popInput l) := by
  simp only [step, h]

/-- The engine's turn, with a word pending (R45). -/
theorem engineTurn_pending {s : State} {c : Word} (hr : s.resetLine = false) (h : s.pend = some c) :
    engineTurn s = runWord c s := by
  simp [engineTurn, hr, h]

theorem engineTurn_idle {s : State} (h : s.pend = none) : engineTurn s = .next s := by
  simp [engineTurn, h]

theorem runWord_legal {c : Word} {i : Instr} (h : decode c = .ok i) (s : State) : runWord c s = exec i s := by
  simp only [runWord, h]

theorem runWord_illegal {c : Word} {e : DecodeError} (h : decode c = .error e) (s : State) :
    runWord c s = s.illegalWord := by
  simp only [runWord, h]

/-- A read inside the window never stops the machine: no answer, a word, or a bus error (R63, R64, R320). -/
theorem busRead_cases {addr n : Nat} {s : State} (h : s.inWindow addr) :
    (s.resetLine = true ∧ busRead addr n s = .next (s.respond .none)) ∨
    (s.resetLine = false ∧ s.accepted addr n ∧
      busRead addr n s =
        .next ((windowRead (addr - s.cfg.base) s).2.respond (.data (lanesOf (windowRead (addr - s.cfg.base) s).1)))) ∨
    (s.resetLine = false ∧ ¬ s.accepted addr n ∧ busRead addr n s = .next (s.respond .busError)) := by
  unfold busRead
  rw [if_neg (not_not_intro h)]
  cases hr : s.resetLine
  · by_cases ha : s.accepted addr n
    · exact .inr (.inl ⟨rfl, ha, by simp only [Bool.false_eq_true, if_false, if_pos ha]⟩)
    · exact .inr (.inr ⟨rfl, ha, by simp only [Bool.false_eq_true, if_false, if_neg ha]⟩)
  · exact .inl ⟨rfl, by simp⟩

/-- A write inside the window never stops the machine (R63, R64, R320). -/
theorem busWrite_cases {addr : Nat} {l : List Byte} {s : State} (h : s.inWindow addr) :
    (s.resetLine = true ∧ busWrite addr l s = .next (s.respond .none)) ∨
    (s.resetLine = false ∧ s.accepted addr l.length ∧
      busWrite addr l s = .next ((windowWrite (addr - s.cfg.base) (wordOf l) s).respond .ack)) ∨
    (s.resetLine = false ∧ ¬ s.accepted addr l.length ∧ busWrite addr l s = .next (s.respond .busError)) := by
  unfold busWrite
  rw [if_neg (not_not_intro h)]
  cases hr : s.resetLine
  · by_cases ha : s.accepted addr l.length
    · exact .inr (.inl ⟨rfl, ha, by simp only [Bool.false_eq_true, if_false, if_pos ha]⟩)
    · exact .inr (.inr ⟨rfl, ha, by simp only [Bool.false_eq_true, if_false, if_neg ha]⟩)
  · exact .inl ⟨rfl, by simp⟩

theorem busRead_outside {addr n : Nat} {s : State} (h : ¬ s.inWindow addr) : busRead addr n s = .fault .outsideWindow := by
  simp only [busRead, if_pos h]

theorem busWrite_outside {addr : Nat} {l : List Byte} {s : State} (h : ¬ s.inWindow addr) :
    busWrite addr l s = .fault .outsideWindow := by
  simp only [busWrite, if_pos h]

/-- Everything a word read can do to the state (R67): nothing, or WERR set by XLIMB. -/
theorem windowRead_state (off : Nat) (s : State) :
    (windowRead off s).2 = s ∨
      (off = 0x18 ∧ s.cfg.limbs ≤ s.xselLimb.toNat ∧ windowRead off s = (0, s.refuseAccess)) := by
  by_cases h : off = 0x18
  · subst h
    by_cases hl : s.xselLimb.toNat < s.cfg.limbs
    · left; simp [windowRead, readXlimb, State.limb?, hl]
    · right; exact ⟨rfl, by omega, by simp [windowRead, readXlimb, State.limb?, hl]⟩
  · left
    unfold windowRead
    split <;> first | rfl | exact absurd rfl h

/-- Everything a word write can do to the state (R28, R33 to R36, R41, R46). -/
theorem windowWrite_cases (off : Nat) (v : Word) (s : State) :
    windowWrite off v s = s ∨
    (off = 0x0C ∧ windowWrite off v s = writeStatus v s) ∨
    (s.busy = true ∧ windowWrite off v s = s.refuseAccess) ∨
    (s.busy = false ∧ off = 0x08 ∧ windowWrite off v s = s.issue v) ∨
    (s.busy = false ∧ off = 0x10 ∧ windowWrite off v s = writeCtrl v s) ∨
    (s.busy = false ∧ off = 0x14 ∧ windowWrite off v s = writeXsel v s) ∨
    (s.busy = false ∧ off = 0x18 ∧ windowWrite off v s = writeXlimb v s) := by
  unfold windowWrite State.unlessBusy
  cases hb : s.busy
  · split <;> simp
  · split <;> simp

end Sys2Proof.Machine
end

