-- ==== Sys2Proof/Laws/Window.lean ====
section
/-! SUPPORT. The byte lanes of a word (R65), and the step of a bus access aimed at an offset of the window (R63, R64). -/

namespace Sys2Proof.Machine

@[simp] theorem lanesOf_length (w : Word) : (lanesOf w).length = 4 := rfl

/-- R65: the lanes of a word carry that word. -/
@[simp] theorem wordOf_lanesOf (w : Word) : wordOf (lanesOf w) = w := by
  apply BitVec.eq_of_toNat_eq
  have := w.isLt
  simp only [wordOf, lanesOf, lanesNat, BitVec.toNat_ofNat]
  omega

theorem inWindow_offset (s : State) {off : Nat} (h : off < 4096) : s.inWindow (s.cfg.base + off) :=
  ⟨by omega, by unfold windowBytes; omega⟩

/-- The step of an accepted write (R63). -/
theorem step_write {s : State} {off : Nat} {w : Word} {rest : List Input} (ho : off < 4096) (ha : off % 4 = 0)
    (h : s.Facing (.write (s.cfg.base + off) (lanesOf w)) rest) :
    step s = .next ((windowWrite off w (s.popInput rest)).respond .ack) := by
  rw [step_input h.2]
  show busWrite (s.cfg.base + off) (lanesOf w) (s.popInput rest) = _
  have hw : (s.popInput rest).inWindow (s.cfg.base + off) := inWindow_offset _ ho
  have hr : (s.popInput rest).resetLine = false := h.1
  have hacc : (s.popInput rest).accepted (s.cfg.base + off) (lanesOf w).length :=
    ⟨rfl, by show (s.cfg.base + off - s.cfg.base) % 4 = 0; rw [Nat.add_sub_cancel_left]; exact ha⟩
  have hb : s.cfg.base + off - (s.popInput rest).cfg.base = off := Nat.add_sub_cancel_left _ _
  unfold busWrite
  rw [if_neg (not_not_intro hw), hr, if_neg (by simp), if_pos hacc, hb, wordOf_lanesOf]

/-- The step of an accepted read (R63). -/
theorem step_read {s : State} {off : Nat} {rest : List Input} (ho : off < 4096) (ha : off % 4 = 0)
    (h : s.Facing (.read (s.cfg.base + off) 4) rest) :
    step s =
      .next ((windowRead off (s.popInput rest)).2.respond (.data (lanesOf (windowRead off (s.popInput rest)).1))) := by
  rw [step_input h.2]
  show busRead (s.cfg.base + off) 4 (s.popInput rest) = _
  have hw : (s.popInput rest).inWindow (s.cfg.base + off) := inWindow_offset _ ho
  have hr : (s.popInput rest).resetLine = false := h.1
  have hacc : (s.popInput rest).accepted (s.cfg.base + off) 4 :=
    ⟨rfl, by show (s.cfg.base + off - s.cfg.base) % 4 = 0; rw [Nat.add_sub_cancel_left]; exact ha⟩
  have hb : s.cfg.base + off - (s.popInput rest).cfg.base = off := Nat.add_sub_cancel_left _ _
  unfold busRead
  rw [if_neg (not_not_intro hw), hr, if_neg (by simp), if_pos hacc, hb]

end Sys2Proof.Machine
end

