-- ==== Sys2Proof/Tests/Slice0.lean ====
section
/-! SUPPORT. The model's own tests. Expected values are the vectors of 95_test_vectors.md, by section, or are worked out by hand
from the rule that is named. After them, the witnesses: for every statement with hypotheses, a state and operands that meet
them. -/

namespace Sys2Proof.Machine

/-! ### Small states and what is read off a result -/

/-- The reset state with some integer registers loaded. -/
def st (l : List (XIdx × Int)) : State := l.foldl (fun s p => s.setX p.1 p.2) State.reset

/-- A loaded state with the curve `c` bound, `P` in `pt0` and `Q` in `pt1`. -/
def curveSt (c : Curve) (P Q : Point) (l : List (XIdx × Int)) : State :=
  { st l with crv := c, cv := true, pt := #v[P, Q, .inf, .inf, .inf, .inf, .inf, .inf] }

/-- MF's test curve (95_test_vectors.md section 3). -/
def testCurve : Curve := { a := 0, b := 7, p := 23 }

/-- The test curve with `(1, 10)` in `pt0` and `(4, 5)` in `pt1`. -/
def ptSt (l : List (XIdx × Int)) : State := curveSt testCurve (.aff 1 10) (.aff 4 5) l

/-- A state with the random source's coming answers. -/
def drawSt (n : Int) (answers : List Int) : State :=
  { st [(0, n)] with env := { Env.initial with draws := answers } }

/-- The code, and an integer register after. -/
def xAfter (r : Result) (i : XIdx) : Option (Code × Int) :=
  match r with
  | .next t => some (t.code, t.xval i)
  | .fault _ => none
  | .refused _ => none

/-- The code, and a point register after. -/
def ptAfter (r : Result) (i : PIdx) : Option (Code × Point) :=
  match r with
  | .next t => some (t.code, t.point i)
  | .fault _ => none
  | .refused _ => none

/-- STATUS and PTINF after. -/
def wordsAfter (r : Result) : Option (Word × Word) :=
  match r with
  | .next t => some (statusWord t, ptinfWord t)
  | .fault _ => none
  | .refused _ => none

/-- The trace after. -/
def traceAfter (r : Result) : Option (List Event) :=
  match r with
  | .next t => some t.trace
  | .fault _ => none
  | .refused _ => none

/-! ### WellFormed: an ill-formed term for each check of R97 -/

theorem test_illformed_xgcd_rg_rx : (Instr.xgcd 0 0 1 2 3).wellFormed = false := by decide
theorem test_illformed_xgcd_rg_ry : (Instr.xgcd 0 1 0 2 3).wellFormed = false := by decide
theorem test_illformed_xgcd_rx_ry : (Instr.xgcd 0 1 1 2 3).wellFormed = false := by decide
theorem test_illformed_pstore : (Instr.pstore 1 1 0).wellFormed = false := by decide
theorem test_wellformed_xgcd_sources : (Instr.xgcd 0 1 2 0 0).wellFormed = true := by decide

/-! ### Decoding: a word of the spec for every constructor (95_test_vectors.md sections 2 and 4) -/

theorem test_decode_nop : decode 0x00000000 = .ok .nop := by decide
theorem test_decode_clear : decode 0x01000000 = .ok .clear := by decide
theorem test_decode_mov : decode 0x02750000 = .ok (.mov 7 5) := by decide
theorem test_decode_gcd : decode 0x10423000 = .ok (.gcd 4 2 3) := by decide
theorem test_decode_xgcd : decode 0x11012450 = .ok (.xgcd 0 1 2 4 5) := by decide
theorem test_decode_modinv : decode 0x1240F000 = .ok (.modinv 4 0 15) := by decide
theorem test_decode_modpow : decode 0x13BA2700 = .ok (.modpow 11 10 2 7) := by decide
theorem test_decode_modpowct : decode 0x14DB5700 = .ok (.modpowct 13 11 5 7) := by decide
theorem test_decode_totient : decode 0x15789000 = .ok (.totient 7 8 9) := by decide
theorem test_decode_mrtest : decode 0x20100005 = .ok (.mrtest 1 0 5) := by decide
theorem test_decode_modadd : decode 0x30B9EF00 = .ok (.modadd 11 9 14 15) := by decide
theorem test_decode_modsub : decode 0x31012300 = .ok (.modsub 0 1 2 3) := by decide
theorem test_decode_modmul : decode 0x32654F00 = .ok (.modmul 6 5 4 15) := by decide
theorem test_decode_modsqrt : decode 0x33012000 = .ok (.modsqrt 0 1 2) := by decide
theorem test_decode_curve : decode 0x40012000 = .ok (.curve 0 1 2) := by decide
theorem test_decode_oncurve : decode 0x41534000 = .ok (.oncurve 5 3 4) := by decide
theorem test_decode_pload : decode 0x42156000 = .ok (.pload 1 5 6) := by decide
theorem test_decode_pinf : decode 0x43300000 = .ok (.pinf 3) := by decide
theorem test_decode_pstore : decode 0x44AB4000 = .ok (.pstore 10 11 4) := by decide
theorem test_decode_pmov : decode 0x45100000 = .ok (.pmov 1 0) := by decide
theorem test_decode_pneg : decode 0x46320000 = .ok (.pneg 3 2) := by decide
theorem test_decode_padd : decode 0x47413000 = .ok (.padd 4 1 3) := by decide
theorem test_decode_pdbl : decode 0x48500000 = .ok (.pdbl 5 0) := by decide
theorem test_decode_smul : decode 0x49381000 = .ok (.smul 3 8 1) := by decide
theorem test_decode_smulct : decode 0x4A250000 = .ok (.smulct 2 5 0) := by decide
theorem test_decode_porder : decode 0x4B706000 = .ok (.porder 7 0 6) := by decide

/-! ### Illegal words (section 2.8) -/

theorem test_illegal_opcode : decode 0x03000000 = .error (.unknownOpcode 3) := by decide
theorem test_illegal_z : decode 0x10123001 = .error .nonzeroUnused := by decide
theorem test_illegal_f5 : decode 0x02100010 = .error .nonzeroUnused := by decide
theorem test_illegal_point : decode 0x47800000 = .error (.pointIndex 8) := by decide
theorem test_illegal_mrtest : decode 0x2010010A = .error .nonzeroUnused := by decide
theorem test_illegal_duplicate_xgcd : xAfter (runWord 0x11001230 (st [])) 0 = some (.eIllegal, 0) := by decide
theorem test_illegal_duplicate_pstore : xAfter (runWord 0x44110000 (ptSt [])) 1 = some (.eIllegal, 0) := by decide
theorem test_illegal_status : wordsAfter (runWord 0x03000000 (st [])) = some (0x00001002, 0xFF) := by decide
theorem test_encode_modsqr : encode (Instr.modsqr 3 2 1) = 0x32322100 := by decide
theorem test_encode_isprime : encode (Instr.isprime 1 0) = 0x20100000 := by decide
theorem test_assemble : assembleLine "  modpow x3, x0,x1, x2  # V1" = .command (.modpow 3 0 1 2) := by decide +kernel

/-! ### The commands -/

-- Section 2.7.
theorem test_nop : wordsAfter (exec .nop (ptSt [])) = some (0x00000012, 0xFC) := by decide
theorem test_clear : wordsAfter (exec .clear (ptSt [(0, 5)])) = some (0x00000002, 0xFF) := by decide
theorem test_clear_x : xAfter (exec .clear (st [(15, -5)])) 15 = some (.ok, 0) := by decide
theorem test_mov : xAfter (exec (.mov 1 3) (st [(3, -5)])) 1 = some (.ok, -5) := by decide
-- Section 2.1.
theorem test_gcd : xAfter (exec (.gcd 0 1 2) (st [(1, 48), (2, -18)])) 0 = some (.ok, 6) := by decide
theorem test_gcd_overflow :
    xAfter (exec (.gcd 0 1 2) (st [(0, 3), (1, -2147483648)])) 0 = some (.eOverflow, 3) := by decide
theorem test_xgcd_x : xAfter (exec (.xgcd 0 1 2 4 5) (st [(4, 240), (5, 46)])) 1 = some (.ok, -9) := by decide
theorem test_xgcd_y : xAfter (exec (.xgcd 0 1 2 4 5) (st [(4, 240), (5, 46)])) 2 = some (.ok, 47) := by decide
theorem test_modinv : xAfter (exec (.modinv 0 1 2) (st [(1, -3), (2, 7)])) 0 = some (.ok, 2) := by decide
theorem test_modinv_none :
    xAfter (exec (.modinv 0 1 2) (st [(1, 4), (2, 6)])) 0 = some (.noModularInverse, 0) := by decide
theorem test_modpow :
    xAfter (exec (.modpow 3 0 1 2) (st [(0, -2), (1, 3), (2, 7)])) 3 = some (.ok, 6) := by decide
theorem test_modpow_trace :
    traceAfter (exec (.modpow 3 0 1 2) (st [(0, 3), (1, 13), (2, 7)])) =
      some [.mul, .sqr, .sqr, .mul, .sqr, .mul, .sqr] := by decide
theorem test_modpowct :
    xAfter (exec (.modpowct 3 0 1 2) (st [(0, 4), (1, 13), (2, 497)])) 3 = some (.ok, 445) := by decide
theorem test_modpowct_trace :
    traceAfter (exec (.modpowct 3 0 1 2) (st [(0, 2), (1, 3), (2, 7)])) = some [.mul, .sqr, .mul, .sqr] := by decide
theorem test_totient : xAfter (exec (.totient 0 1 2) (st [(1, -5), (2, 3)])) 0 = some (.ok, -12) := by decide
theorem test_totient_overflow :
    xAfter (exec (.totient 0 1 2) (st [(1, 46342), (2, 46342)])) 0 = some (.eOverflow, 0) := by decide
-- Section 2.2.
theorem test_mrtest_composite :
    xAfter (exec (.mrtest 1 0 1) (drawSt 15 [4])) 1 = some (.ok, 0) ∧
      xAfter (exec (.mrtest 1 0 1) (drawSt 9 [2])) 1 = some (.ok, 0) := by decide
theorem test_mrtest_liar_then_witness :
    xAfter (exec (.mrtest 1 0 1) (drawSt 561 [50])) 1 = some (.ok, 1) ∧
      traceAfter (exec (.mrtest 1 0 3) (drawSt 561 [50, 2, 50])) = some [.draw, .draw] := by decide
-- Section 2.3.
theorem test_modadd : xAfter (exec (.modadd 0 1 2 3) (st [(1, -5), (2, -7), (3, 23)])) 0 = some (.ok, 11) := by decide
theorem test_modadd_wide :
    xAfter (exec (.modadd 0 1 2 3) (st [(1, 2147483647), (2, 2147483647), (3, 2147483646)])) 0 = some (.ok, 2) := by
  decide
theorem test_modsub : xAfter (exec (.modsub 0 1 2 3) (st [(1, 3), (2, 9), (3, 23)])) 0 = some (.ok, 17) := by decide
theorem test_modmul :
    xAfter (exec (.modmul 0 1 2 3) (st [(1, 2147483647), (2, 2147483647), (3, 2147483646)])) 0 = some (.ok, 1) := by
  decide
theorem test_modmul_range : xAfter (exec (.modmul 0 1 2 3) (st [(1, 5), (2, 6)])) 0 = some (.eRange, 0) := by decide
theorem test_modsqrt : xAfter (exec (.modsqrt 0 1 2) (st [(1, -21), (2, 23)])) 0 = some (.ok, 18) := by decide
theorem test_modsqrt_order :
    xAfter (exec (.modsqrt 0 1 2) (st [(1, 5), (2, 13)])) 0 = some (.eUnsupported, 0) := by decide
-- Section 2.4.
theorem test_curve :
    wordsAfter (exec (.curve 0 1 2) (ptSt [(0, 2), (1, 2), (2, 17)])) = some (0x00000012, 0xFF) := by decide
theorem test_curve_singular :
    wordsAfter (exec (.curve 0 1 2) (st [(0, -3), (1, 2), (2, 23)])) = some (0x00000602, 0xFF) := by decide
theorem test_oncurve : xAfter (exec (.oncurve 5 3 4) (ptSt [(3, 9)])) 5 = some (.ok, 1) := by decide
theorem test_oncurve_unreduced : xAfter (exec (.oncurve 5 3 4) (ptSt [(3, 24), (4, 10)])) 5 = some (.ok, 0) := by
  decide
theorem test_pload : ptAfter (exec (.pload 2 3 4) (ptSt [(3, 1), (4, 10)])) 2 = some (.ok, .aff 1 10) := by decide
theorem test_pload_refused :
    ptAfter (exec (.pload 0 3 4) (ptSt [(3, 1), (4, -13)])) 0 = some (.invalidCurvePoint, .aff 1 10) := by decide
theorem test_pinf : ptAfter (exec (.pinf 0) (ptSt [])) 0 = some (.ok, .inf) := by decide
theorem test_pinf_no_curve : wordsAfter (exec (.pinf 0) (st [])) = some (0x00001402, 0xFF) := by decide
theorem test_pstore : xAfter (exec (.pstore 5 6 0) (ptSt [])) 6 = some (.ok, 10) := by decide
theorem test_pstore_inf : xAfter (exec (.pstore 5 6 4) (ptSt [(5, 9)])) 5 = some (.ok, 0) := by decide
theorem test_pmov : ptAfter (exec (.pmov 2 0) (ptSt [])) 2 = some (.ok, .aff 1 10) := by decide
-- Section 2.5.
theorem test_pneg : ptAfter (exec (.pneg 2 1) (ptSt [])) 2 = some (.ok, .aff 4 18) := by decide
theorem test_padd : ptAfter (exec (.padd 2 0 1) (ptSt [])) 2 = some (.ok, .aff 8 17) := by decide
theorem test_padd_same : ptAfter (exec (.padd 0 0 0) (ptSt [])) 0 = some (.ok, .aff 22 11) := by decide
theorem test_pdbl : ptAfter (exec (.pdbl 2 1) (ptSt [])) 2 = some (.ok, .aff 4 18) := by decide
-- Section 2.6.
theorem test_smul : ptAfter (exec (.smul 1 0 0) (ptSt [(0, 13)])) 1 = some (.ok, .aff 16 3) := by decide
theorem test_smul_trace :
    traceAfter (exec (.smul 1 0 0) (ptSt [(0, 6)])) = some [.pdbl, .padd, .pdbl, .padd, .pdbl] := by decide
theorem test_smulct : ptAfter (exec (.smulct 1 0 0) (ptSt [(0, 23)])) 1 = some (.ok, .aff 1 13) := by decide
theorem test_smulct_trace :
    traceAfter (exec (.smulct 1 0 0) (ptSt [(0, 2)])) = some [.padd, .pdbl, .padd, .pdbl] := by decide
theorem test_porder : xAfter (exec (.porder 2 0 1) (ptSt [(1, 24)])) 2 = some (.ok, 24) := by decide
theorem test_porder_unknown : xAfter (exec (.porder 2 0 1) (ptSt [(1, 23)])) 2 = some (.sUnknown, 0) := by decide

/-! ### Program 4 of 95_test_vectors.md: the fatal state -/

/-- The state before step 6 of program 4. -/
def compositeSt : State :=
  curveSt { a := 0, b := 1, p := 25 } (.aff 0 1) (.aff 5 1) [(1, 1), (2, 25), (4, 1), (5, 5), (6, 1)]

theorem test_fatal : wordsAfter (exec (.padd 2 0 1) compositeSt) = some (0x00000716, 0xFC) := by decide
theorem test_fatal_refuses :
    wordsAfter (exec .clear { compositeSt with fatal := true }) = some (0x00001516, 0xFC) := by decide

/-! ### The window (sections 2.9 and 4, program 5) -/

theorem test_window_xlimb :
    (windowWrite 0x18 0xFFFFFFFB (windowWrite 0x14 0x00000003 (st []))).xval 3 = -5 := by decide
theorem test_window_limb_out_of_range :
    statusWord (windowRead 0x18 (windowWrite 0x14 0x00010003 (st []))).2 = 0x00000008 := by decide
theorem test_window_busy_write :
    statusWord (windowWrite 0x18 0x63 (windowWrite 0x08 0x12012000 (st []))) = 0x00000009 := by decide
theorem test_window_xsel_reads : (windowRead 0x14 (windowWrite 0x14 0xFFFFFFFF (st []))).1 = 0xFFFF000F := by decide
theorem test_window_ctrl_reads : (windowRead 0x10 (windowWrite 0x10 0xFFFFFFFD (st []))).1 = 0x00000001 := by decide
theorem test_step_runs_placed_word :
    xAfter (step ((st [(1, -3), (2, 7)]).withFetchWord 32 0x12012000)) 0 = some (.ok, 2) := by decide

/-! ### Witnesses -/

theorem st_inv (l : List (XIdx × Int)) : (st l).Inv := by
  have h : ∀ (l : List (XIdx × Int)) (s : State), s.Inv → (l.foldl (fun s p => s.setX p.1 p.2) s).Inv := by
    intro l
    induction l with
    | nil => exact fun _ h => h
    | cons p l ih => exact fun s h => ih _ (h.setX _ _)
  refine h l _ ?_
  exact
    { legal := by decide
      regLength := by decide
      contextFits := by decide
      bound := by decide
      unbound := by decide
      reduced := fun i => by fin_cases i <;> trivial
      pending := fun w h => by cases h
      noHostCode := rfl
      fatalBound := by decide }

theorem st_fatal (l : List (XIdx × Int)) : (st l).fatal = false := by
  obtain ⟨x', h⟩ := State.foldl_setX_eq l State.reset
  rw [st, h]; rfl

theorem st_ready (l : List (XIdx × Int)) : (st l).Ready := ⟨st_inv l, st_fatal l⟩

theorem st_frame (l : List (XIdx × Int)) : (st l).cfg = Config.default ∧ (st l).pend = none ∧
    (st l).resetLine = false ∧ (st l).env = Env.initial ∧ (st l).code = .ok := by
  obtain ⟨x', h⟩ := State.foldl_setX_eq l State.reset
  rw [st, h]; exact ⟨rfl, rfl, rfl, rfl, rfl⟩

theorem curveSt_inv {c : Curve} {P Q : Point} (l : List (XIdx × Int)) (hp : 3 < c.p) (hd : disc c.a c.b c.p ≠ 0)
    (hf : fits Config.default c.a ∧ fits Config.default c.b ∧ fits Config.default c.p) (hP : P.Reduced c)
    (hQ : Q.Reduced c) : (curveSt c P Q l).Inv := by
  have h := st_inv l
  obtain ⟨h1, h2, -, -, h5⟩ := st_frame l
  exact
    { legal := h.legal
      regLength := h.regLength
      contextFits := by
        show fits (st l).cfg _ ∧ fits (st l).cfg _ ∧ fits (st l).cfg _
        rw [h1]; exact hf
      bound := fun _ => ⟨hp, hd⟩
      unbound := fun hc => by cases hc
      reduced := fun i => by fin_cases i <;> first | exact hP | exact hQ | trivial
      pending := fun w hw => by rw [show (curveSt c P Q l).pend = none from h2] at hw; cases hw
      noHostCode := by show (st l).code.isHost = false; rw [h5]; rfl
      fatalBound := fun _ => rfl }

theorem ptSt_inv (l : List (XIdx × Int)) : (ptSt l).Inv :=
  curveSt_inv l (by decide) (by decide) (by decide) (by simp [Point.Reduced, testCurve]) (by simp [Point.Reduced, testCurve])

theorem ptSt_ready (l : List (XIdx × Int)) : (ptSt l).CurveReady := ⟨ptSt_inv l, st_fatal l, rfl⟩

theorem ptSt_prime (l : List (XIdx × Int)) : (ptSt l).PrimeField :=
  ⟨by show (0 : Int) ≤ 23; decide, by show Nat.Prime 23; norm_num⟩

theorem ptSt_onCurve (l : List (XIdx × Int)) : (ptSt l).PointsOnCurve := by
  intro _ i
  fin_cases i <;> first | trivial | (show onCurve testCurve _ _ = true; decide)

theorem compositeSt_ready : compositeSt.CurveReady :=
  ⟨curveSt_inv _ (by decide) (by decide) (by decide) (by simp [Point.Reduced]) (by simp [Point.Reduced]),
    st_fatal _, rfl⟩

/-- Any command has an outcome, so a hypothesis `exec i s = next t` is met in every state. -/
theorem exec_answers (i : Instr) (s : State) : ∃ t, exec i s = .next t := ⟨_, exec_next i s⟩

/-- `s` with one input to come. -/
def facing (s : State) (i : Input) : State := { s with env := { s.env with inputs := [i] } }

theorem facing_facing (s : State) (i : Input) (h : s.resetLine = false) : (facing s i).Facing i [] := ⟨h, rfl⟩

theorem facing_inv {s : State} (h : s.Inv) (i : Input) : (facing s i).Inv := h.withEnv _

/-- The reset state with the reset input asserted. -/
def heldSt : State := { st [] with resetLine := true }

theorem witness_EncodeOfDecode : decode 0x4B706000 = .ok (.porder 7 0 6) := by decide

theorem witness_StepRunsDecodedCommand :
    (((st []).issue 0x12012000).resetLine = false ∧ ((st []).issue 0x12012000).pend = some 0x12012000 ∧
      decode 0x12012000 = .ok (.modinv 0 1 2) ∧ ((st []).issue 0x12012000).env.inputs = [] ∧
      (facing ((st []).issue 0x12012000) .engine).env.inputs = [.engine]) ∧
    ((st []).pend = none ∧ (st []).env.inputs = []) := by decide

theorem witness_PendingCommandCompletes :
    ((st []).issue 0x03000000).busy = true ∧ ((st []).issue 0x03000000).resetLine = false ∧
      ((st []).issue 0x03000000).env.inputs = [] := by decide

theorem witness_ResetHasInvariant :
    Config.legal { limbs := 1, base := 0 } ∧ Config.legal { limbs := 65535, base := 4096 } := by decide

theorem witness_StepKeepsInvariant :
    ∃ t, ((ptSt []).issue 0x47201000).Inv ∧ step ((ptSt []).issue 0x47201000) = .next t :=
  ⟨_, (ptSt_inv []).issue _, rfl⟩

theorem witness_StepKeepsPointsOnCurve :
    ∃ t, ((ptSt []).issue 0x47201000).Inv ∧ ((ptSt []).issue 0x47201000).PointsOnCurve ∧
      ((ptSt []).issue 0x47201000).PrimeField ∧ step ((ptSt []).issue 0x47201000) = .next t :=
  ⟨_, (ptSt_inv []).issue _, ptSt_onCurve [], ptSt_prime [], rfl⟩

theorem witness_FatalRefusesEveryWord :
    let s := State.issue { compositeSt with fatal := true } 0x01000000
    s.fatal = true ∧ s.pend = some 0x01000000 ∧ s.resetLine = false ∧ s.env.inputs = [] := by decide

theorem witness_IllegalWordRaises :
    let s := (st []).issue 0x03000000
    let u := (st []).issue 0x11001230
    (s.fatal = false ∧ s.pend = some 0x03000000 ∧ s.resetLine = false ∧ s.env.inputs = [] ∧
      ∀ o ∈ Opcode.all, o.accepts 0x03000000 = false) ∧
    (u.fatal = false ∧ u.pend = some 0x11001230 ∧ u.resetLine = false ∧ u.env.inputs = [] ∧
      decode 0x11001230 = .ok (.xgcd 0 0 1 2 3) ∧ (Instr.xgcd 0 0 1 2 3).wellFormed = false) := by decide

theorem witness_CurveCheck :
    ((st []).fatal = false ∧ (st []).cv = false ∧ needsCurve (.pinf 0) = true ∧ (Instr.pinf 0).wellFormed = true) ∧
    needsCurve .nop = false := by decide

theorem witness_FailedCommandWritesNothing :
    let s := State.issue (st []) 0x43000000
    let u := State.issue compositeSt 0x47201000
    (∃ t, (st []).busy = false ∧ (st []).resetLine = false ∧ (st []).env.inputs = [] ∧ step s = .next t ∧
      t.code = .eNoCurve) ∧
    (∃ t, compositeSt.busy = false ∧ compositeSt.resetLine = false ∧ compositeSt.env.inputs = [] ∧
      step u = .next t ∧ t.code = .divisionByZero) :=
  ⟨⟨_, rfl, rfl, rfl, rfl, by decide⟩, ⟨_, rfl, rfl, rfl, rfl, by decide⟩⟩

theorem witness_CodesPerCommand : ∃ t, (ptSt []).Inv ∧ exec (.padd 2 0 1) (ptSt []) = .next t :=
  ⟨_, ptSt_inv [], rfl⟩

theorem witness_PrimeFieldNeverFatal :
    ∃ t, (ptSt []).Inv ∧ (ptSt []).PrimeField ∧ exec (.padd 2 0 1) (ptSt []) = .next t :=
  ⟨_, ptSt_inv [], ptSt_prime [], rfl⟩

/-- The curve of program 4 with `(24, 5)`, which has no double mod 25, in `pt0` and `(0, 1)` in `pt1`. -/
def doublingSt : State := curveSt { a := 0, b := 1, p := 25 } (.aff 24 5) (.aff 0 1) [(1, 1), (2, 2)]

theorem doublingSt_ready : doublingSt.CurveReady :=
  ⟨curveSt_inv _ (by decide) (by decide) (by decide) (by simp [Point.Reduced]) (by simp [Point.Reduced]),
    st_fatal _, rfl⟩

theorem witness_DivisionByZeroIsFatal :
    (compositeSt.CurveReady ∧ SlopeUndefined compositeSt.crv (compositeSt.point 0) (compositeSt.point 1)) ∧
    (let s := doublingSt
     s.CurveReady ∧ SlopeUndefined s.crv (s.point 0) (s.point 0) ∧
      (0 ≤ s.xval 1 ∧ smulAccumulators s.crv (s.point 0) (s.xval 1).toNat (bitlen (s.xval 1).toNat) = none) ∧
      smulctAccumulators s.crv (s.point 0) (s.xval 1).toNat (bitlen (s.xval 1).toNat) = none ∧
      (((2 : Nat) : Int) ≤ s.xval 2 ∧ pointMultiple s.crv (s.point 0) 2 = none ∧
        ∀ j, 1 ≤ j → j < 2 → pointMultiple s.crv (s.point 0) j ≠ some .inf)) := by
  refine ⟨⟨compositeSt_ready, .inl ⟨by decide, by decide⟩⟩, doublingSt_ready,
    .inr ⟨rfl, rfl, by decide, by decide⟩, by decide, by decide, by decide, by decide, fun j h1 h2 => ?_⟩
  obtain rfl : j = 1 := by omega
  decide

theorem witness_FatalClearedOnlyByReset :
    (∃ t, step (facing { compositeSt with fatal := true } (.write 0x10 (lanesOf 2))) = .next t ∧ t.fatal = false) ∧
    (∃ t, step (facing { heldSt with fatal := true } (.resetLine false)) = .next t ∧ t.fatal = false) :=
  ⟨⟨_, rfl, by decide⟩, ⟨_, rfl, by decide⟩⟩

/-- The state after step 6 of program 4. -/
def fatalSt : State := { compositeSt with fatal := true }

theorem fatalSt_inv : fatalSt.Inv :=
  { compositeSt_ready.1 with
    unbound := compositeSt_ready.1.unbound
    reduced := compositeSt_ready.1.reduced
    fatalBound := fun _ => rfl }

theorem witness_ClearResult :
    (st [(0, 5)]).Inv ∧ (st [(0, 5)]).fatal = false ∧ fatalSt.Inv ∧ fatalSt.fatal = true :=
  ⟨st_inv _, rfl, fatalSt_inv, rfl⟩
theorem witness_NopMovResult :
    (st [(3, -5)]).Inv ∧ (st [(3, -5)]).fatal = false ∧ fatalSt.Inv ∧ fatalSt.fatal = true :=
  ⟨st_inv _, rfl, fatalSt_inv, rfl⟩

theorem witness_GcdResult :
    let s := st [(1, 1071), (2, 462), (3, -2147483648)]
    s.Ready ∧ (s.xval 1 = 1071 ∧ s.xval 2 = 462) ∧
      (s.xval 3 = -(2 ^ (32 * s.cfg.limbs - 1)) ∧ s.xval 0 = 0) :=
  ⟨st_ready _, by decide, by decide⟩

theorem witness_XgcdResult :
    let s := st [(4, -1), (5, 0)]
    s.Ready ∧ (Instr.xgcd 0 0 1 4 5).wellFormed = false ∧
      ((Instr.xgcd 0 1 2 4 5).wellFormed = true ∧ s.xval 4 < 0) ∧ (0 ≤ s.xval 5 ∧ 0 ≤ s.xval 6) :=
  ⟨st_ready _, by decide, by decide, by decide⟩

theorem witness_ModinvResult :
    let s := st [(1, 1), (2, 2)]
    s.Ready ∧ s.xval 0 < 1 ∧ (1 ≤ s.xval 2 ∧ Int.gcd (s.xval 0) (s.xval 2) ≠ 1) ∧
      (1 ≤ s.xval 1 ∧ Int.gcd (s.xval 0) (s.xval 1) = 1) :=
  ⟨st_ready _, by decide, by decide, by decide⟩

theorem witness_ModpowResult :
    let s := st [(1, 1), (2, -1)]
    s.Ready ∧ s.xval 0 < 1 ∧ s.xval 2 < 0 ∧ (1 ≤ s.xval 1 ∧ 0 ≤ s.xval 0) :=
  ⟨st_ready _, by decide, by decide, by decide⟩

theorem witness_ModpowctResult :
    let s := st [(1, 1), (2, -1)]
    s.Ready ∧ s.xval 0 < 1 ∧ s.xval 2 < 0 ∧ (1 ≤ s.xval 1 ∧ 0 ≤ s.xval 0) :=
  ⟨st_ready _, by decide, by decide, by decide⟩

theorem witness_TotientResult :
    let s := st [(1, 46341), (2, 46342)]
    s.Ready ∧ fits s.cfg ((s.xval 1 - 1) * (s.xval 1 - 1)) ∧ ¬ fits s.cfg ((s.xval 2 - 1) * (s.xval 2 - 1)) :=
  ⟨st_ready _, by decide, by decide⟩

theorem witness_MrtestResult :
    let s := st [(1, 1), (2, 2), (3, 3), (4, 4), (5, 5)]
    s.Ready ∧ s.xval 1 ≤ 1 ∧ s.xval 2 = 2 ∧ s.xval 3 = 3 ∧ (4 ≤ s.xval 4 ∧ s.xval 4 % 2 = 0) ∧
      (5 ≤ s.xval 5 ∧ s.xval 5 % 2 = 1) :=
  ⟨st_ready _, by decide, by decide, by decide, by decide, by decide⟩

theorem witness_MrtestNeverRejectsPrimes :
    (∃ t, (st [(0, 2)]).Ready ∧ exec (.mrtest 1 0 1) (st [(0, 2)]) = .next t ∧ 0 ≤ (st [(0, 2)]).xval 0 ∧
      Nat.Prime ((st [(0, 2)]).xval 0).toNat) ∧
    (∃ t, (st [(0, 4)]).Ready ∧ exec (.mrtest 1 0 1) (st [(0, 4)]) = .next t ∧ t.xval 1 = 0 ∧
      2 ≤ (st [(0, 4)]).xval 0) :=
  ⟨⟨_, st_ready _, rfl, by decide, by rw [show (st [(0, 2)]).xval 0 = 2 by decide]; exact Nat.prime_two⟩,
    ⟨_, st_ready _, rfl, by decide, by decide⟩⟩

theorem witness_WitnessRange : (5 : Int) ≤ 5 ∧ (5 : Int) % 2 = 1 ∧ (2 : Int) ≤ 2 ∧ (2 : Int) ≤ 5 - 2 := by decide

theorem witness_ModularArithmeticResult :
    let s := st [(1, 1)]
    s.Ready ∧ s.xval 0 < 1 ∧ 1 ≤ s.xval 1 :=
  ⟨st_ready _, by decide, by decide⟩

theorem witness_ModsqrtResult :
    let s := st [(1, 1), (3, 3)]
    s.Ready ∧ s.xval 0 < 1 ∧ (1 ≤ s.xval 1 ∧ s.xval 1 % 4 ≠ 3) ∧
      (1 ≤ s.xval 3 ∧ s.xval 3 % 4 = 3 ∧ s.xval 0 ^ ((s.xval 3 - 1) / 2).toNat % s.xval 3 ≠ 1) ∧
      s.xval 1 ^ ((s.xval 3 - 1) / 2).toNat % s.xval 3 = 1 :=
  ⟨st_ready _, by decide, by decide, by decide, by decide⟩

theorem witness_ModsqrtFindsRoots :
    ∃ t, (st [(1, 1), (3, 3)]).Ready ∧ 0 ≤ (st [(1, 1), (3, 3)]).xval 3 ∧
      Nat.Prime ((st [(1, 1), (3, 3)]).xval 3).toNat ∧ (st [(1, 1), (3, 3)]).xval 3 % 4 = 3 ∧
      exec (.modsqrt 0 1 3) (st [(1, 1), (3, 3)]) = .next t ∧ t.code = .ok :=
  ⟨_, st_ready _, by decide, by rw [show (st [(1, 1), (3, 3)]).xval 3 = 3 by decide]; exact Nat.prime_three, by decide, rfl,
    by decide⟩

theorem witness_CurveResult :
    let s := st [(1, 1), (3, 3), (4, 4)]
    s.Ready ∧ s.xval 3 ≤ 3 ∧
      (3 < s.xval 4 ∧ (4 * s.xval 0 * s.xval 0 * s.xval 0 + 27 * s.xval 0 * s.xval 0) % s.xval 4 = 0) ∧
      (4 * s.xval 0 * s.xval 0 * s.xval 0 + 27 * s.xval 1 * s.xval 1) % s.xval 4 ≠ 0 :=
  ⟨st_ready _, by decide, by decide, by decide⟩

theorem witness_OncurveResult :
    ((st []).Ready ∧ (st []).cv = false) ∧ ((ptSt [(3, 9)]).Ready ∧ (ptSt [(3, 9)]).cv = true) :=
  ⟨⟨st_ready _, rfl⟩, ⟨⟨ptSt_inv _, st_fatal _⟩, rfl⟩⟩

theorem witness_PloadResult :
    let s := ptSt [(3, 9), (4, 24), (5, 10)]
    ((st []).Ready ∧ (st []).cv = false) ∧ s.Ready ∧ s.cv = true ∧ onCurve s.crv (s.xval 3) (s.xval 0) = true ∧
      onCurve s.crv (s.xval 4) (s.xval 5) = false :=
  ⟨⟨st_ready _, rfl⟩, ⟨ptSt_inv _, st_fatal _⟩, rfl, by decide, by decide⟩

theorem witness_PointMoveResult :
    ((st []).Ready ∧ (st []).cv = false) ∧ ((ptSt []).Ready ∧ (ptSt []).cv = true) :=
  ⟨⟨st_ready _, rfl⟩, ⟨⟨ptSt_inv _, st_fatal _⟩, rfl⟩⟩

theorem witness_PstoreResult :
    ((st []).Ready ∧ (st []).cv = false) ∧ (ptSt []).Ready ∧ (ptSt []).cv = true ∧ (1 : XIdx) = 1 ∧ (5 : XIdx) ≠ 6 ∧
      (ptSt []).point 4 = .inf ∧ (ptSt []).point 0 = .aff 1 10 :=
  ⟨⟨st_ready _, rfl⟩, ⟨ptSt_inv _, st_fatal _⟩, rfl, rfl, by decide, rfl, rfl⟩

theorem witness_PnegResult :
    ((st []).Ready ∧ (st []).cv = false) ∧ (ptSt []).Ready ∧ (ptSt []).cv = true ∧ (ptSt []).point 4 = .inf ∧
      (ptSt []).point 0 = .aff 1 10 :=
  ⟨⟨st_ready _, rfl⟩, ⟨ptSt_inv _, st_fatal _⟩, rfl, rfl, rfl⟩

/-- The doubles of program 4's first point and of the test curve's have their slopes. -/
theorem slope_defined :
    ¬ SlopeUndefined compositeSt.crv (compositeSt.point 0) (compositeSt.point 0) ∧
      ¬ SlopeUndefined testCurve (.aff 1 10) (.aff 1 10) ∧ ¬ SlopeUndefined testCurve (.aff 1 10) (.aff 4 5) := by
  refine ⟨?_, ?_, ?_⟩ <;> rintro (⟨h1, h2⟩ | ⟨h1, -, -, h2⟩) <;> revert h1 h2 <;> decide

theorem witness_PaddResult :
    ((ptSt []).CurveReady ∧ (ptSt []).PrimeField ∧
      ¬ SlopeUndefined (ptSt []).crv ((ptSt []).point 0) ((ptSt []).point 1)) ∧
    (compositeSt.CurveReady ∧ ¬ SlopeUndefined compositeSt.crv (compositeSt.point 0) (compositeSt.point 0)) :=
  ⟨⟨ptSt_ready _, ptSt_prime _, slope_defined.2.2⟩, compositeSt_ready, slope_defined.1⟩

theorem witness_PdblResult :
    ((ptSt []).CurveReady ∧ (ptSt []).PrimeField ∧
      ¬ SlopeUndefined (ptSt []).crv ((ptSt []).point 0) ((ptSt []).point 0)) ∧
    (compositeSt.CurveReady ∧ ¬ SlopeUndefined compositeSt.crv (compositeSt.point 0) (compositeSt.point 0)) :=
  ⟨⟨ptSt_ready _, ptSt_prime _, slope_defined.2.1⟩, compositeSt_ready, slope_defined.1⟩

/-- The test curve with `(1, 10)` and its negative `(1, 13)`. -/
def negSt : State := curveSt testCurve (.aff 1 10) (.aff 1 13) []

theorem witness_PaddGroupLaws :
    negSt.CurveReady ∧ negSt.PrimeField ∧ negSt.point 1 = pneg negSt.crv (negSt.point 0) :=
  ⟨⟨curveSt_inv _ (by decide) (by decide) (by decide) (by simp [Point.Reduced, testCurve])
      (by simp [Point.Reduced, testCurve]), st_fatal _, rfl⟩, ptSt_prime [], by decide⟩

theorem witness_SmulTrace :
    (let s := ptSt [(1, -1)]
     s.CurveReady ∧ s.PrimeField ∧ s.xval 1 < 0 ∧
      (0 ≤ s.xval 0 ∧ smulAccumulators s.crv (s.point 0) 0 (bitlen 0) = some (.inf, s.point 0))) ∧
    (compositeSt.CurveReady ∧ 0 ≤ compositeSt.xval 1 ∧
      smulAccumulators compositeSt.crv (compositeSt.point 0) (compositeSt.xval 1).toNat
        (bitlen (compositeSt.xval 1).toNat) = some (.aff 0 1, .aff 0 24)) :=
  ⟨⟨ptSt_ready _, ptSt_prime _, by decide, by decide, rfl⟩, compositeSt_ready, by decide, by decide⟩

theorem witness_SmulctTrace :
    (let s := ptSt [(1, -1)]
     s.CurveReady ∧ s.PrimeField ∧ s.xval 1 < 0 ∧
      (0 ≤ s.xval 0 ∧ smulctAccumulators s.crv (s.point 0) 0 (bitlen 0) = some (.inf, s.point 0))) ∧
    (compositeSt.CurveReady ∧ 0 ≤ compositeSt.xval 1 ∧
      smulctAccumulators compositeSt.crv (compositeSt.point 0) (compositeSt.xval 1).toNat
        (bitlen (compositeSt.xval 1).toNat) = some (.aff 0 1, .aff 0 24)) :=
  ⟨⟨ptSt_ready _, ptSt_prime _, by decide, by decide, rfl⟩, compositeSt_ready, by decide, by decide⟩

theorem witness_ScalarMultiplesAgree :
    (ptSt []).CurveReady ∧ (ptSt []).PrimeField ∧ (ptSt []).PointsOnCurve ∧ 0 ≤ (ptSt []).xval 0 :=
  ⟨ptSt_ready _, ptSt_prime _, ptSt_onCurve _, by decide⟩

theorem witness_PorderResult :
    let s := ptSt [(1, 1)]
    s.CurveReady ∧ s.PrimeField ∧ s.xval 0 < 1 ∧
      (1 ≤ s.xval 1 ∧ pointMultiple s.crv (s.point 4) 1 = some .inf) ∧
      pointMultiple s.crv (s.point 0) (s.xval 1).toNat ≠ none ∧
      (∀ k : Nat, 1 ≤ k → (k : Int) ≤ s.xval 1 → pointMultiple s.crv (s.point 0) k ≠ some .inf) := by
  refine ⟨ptSt_ready _, ptSt_prime _, by decide, by decide, by decide, fun k h1 h2 => ?_⟩
  rw [show (ptSt [(1, 1)]).xval 1 = 1 by decide] at h2
  obtain rfl : k = 1 := by omega
  decide

theorem witness_CommandIssue :
    (st []).busy = false ∧ (facing (st []) (.write 0x08 (lanesOf 0))).Facing (.write 0x08 (lanesOf 0)) [] :=
  ⟨rfl, facing_facing _ _ rfl⟩

theorem witness_WritesRefusedWhileBusy :
    let s := (st []).issue 0
    s.busy = true ∧ (facing s (.write 0x08 (lanesOf 1))).Facing (.write 0x08 (lanesOf 1)) [] ∧
      (facing s (.write 0x18 (lanesOf 1))).Facing (.write 0x18 (lanesOf 1)) [] ∧
      (facing s (.write 0x0C (lanesOf 8))).Facing (.write 0x0C (lanesOf 8)) [] ∧
      (facing s (.read 0xFFC 4)).Facing (.read 0xFFC 4) [] :=
  ⟨rfl, facing_facing _ _ rfl, facing_facing _ _ rfl, facing_facing _ _ rfl, facing_facing _ _ rfl⟩

theorem witness_StatusWrite :
    (facing (st []) (.write 0x0C (lanesOf 10))).Facing (.write 0x0C (lanesOf 10)) [] := facing_facing _ _ rfl

theorem witness_CtrlWrite :
    (st []).busy = false ∧ (facing (st []) (.write 0x10 (lanesOf 3))).Facing (.write 0x10 (lanesOf 3)) [] ∧
      BitVec.getLsbD (3 : Word) 1 = true ∧ BitVec.getLsbD (1 : Word) 1 = false :=
  ⟨rfl, facing_facing _ _ rfl, by decide, by decide⟩

/-- The reset state with limb 1 selected, which `L = 1` does not have. -/
def farSt : State := { st [] with xselLimb := 1 }

theorem farSt_inv : farSt.Inv :=
  { st_inv [] with unbound := (st_inv []).unbound, reduced := (st_inv []).reduced }

theorem witness_LimbPortWrite :
    (facing (st []) (.write 0x18 (lanesOf 5))).Inv ∧ (st []).busy = false ∧
      (facing (st []) (.write 0x14 (lanesOf 5))).Facing (.write 0x14 (lanesOf 5)) [] ∧
      (facing (st []) (.write 0x18 (lanesOf 5))).Facing (.write 0x18 (lanesOf 5)) [] ∧
      (st []).xselLimb.toNat < (st []).cfg.limbs ∧
      (facing farSt (.write 0x18 (lanesOf 5))).Inv ∧ farSt.busy = false ∧
      (facing farSt (.write 0x18 (lanesOf 5))).Facing (.write 0x18 (lanesOf 5)) [] ∧
      farSt.cfg.limbs ≤ farSt.xselLimb.toNat :=
  ⟨facing_inv (st_inv _) _, rfl, facing_facing _ _ rfl, facing_facing _ _ rfl, by decide,
    facing_inv farSt_inv _, rfl, facing_facing _ _ rfl, by decide⟩

theorem witness_LimbPortRead :
    (facing (st []) (.read 0x18 4)).Inv ∧ (facing (st []) (.read 0x18 4)).Facing (.read 0x18 4) [] ∧
      (st []).xselLimb.toNat < (st []).cfg.limbs ∧
      (facing farSt (.read 0x18 4)).Inv ∧ (facing farSt (.read 0x18 4)).Facing (.read 0x18 4) [] ∧
      farSt.cfg.limbs ≤ farSt.xselLimb.toNat :=
  ⟨facing_inv (st_inv _) _, facing_facing _ _ rfl, by decide, facing_inv farSt_inv _, facing_facing _ _ rfl, by decide⟩

theorem witness_WindowReads :
    (facing (st []) (.read 0x00 4)).Inv ∧ (facing (st []) (.read 0x00 4)).Facing (.read 0x00 4) [] ∧
      (facing (st []) (.read 0x1C 4)).Facing (.read 0x1C 4) [] ∧ (facing (st []) (.read 0x20 4)).Facing (.read 0x20 4) [] ∧
      (facing (st []) (.read 0xFFC 4)).Facing (.read 0xFFC 4) [] :=
  ⟨facing_inv (st_inv _) _, facing_facing _ _ rfl, facing_facing _ _ rfl, facing_facing _ _ rfl, facing_facing _ _ rfl⟩

theorem witness_AccessesWithoutEffect :
    (facing (st []) (.write 0x1C (lanesOf 5))).Facing (.write 0x1C (lanesOf 5)) [] ∧
      (facing (st []) (.read 0xFFF 4)).Facing (.read 0xFFF 4) [] ∧
      (facing (st []) (.write 0x08 [0, 0])).Facing (.write 0x08 [0, 0]) [] :=
  ⟨facing_facing _ _ rfl, facing_facing _ _ rfl, facing_facing _ _ rfl⟩

theorem witness_ResetValues :
    State.reset.cfg.legal ∧
      (∃ t, heldSt.resetLine = true ∧ (facing heldSt (.resetLine false)).env.inputs = [.resetLine false] ∧
        step (facing heldSt (.resetLine false)) = .next t ∧ t.cfg.legal) ∧
      (∃ t, compositeSt.busy = false ∧
        (facing compositeSt (.write 0x10 (lanesOf 2))).Facing (.write 0x10 (lanesOf 2)) [] ∧
        BitVec.getLsbD (2 : Word) 1 = true ∧ step (facing compositeSt (.write 0x10 (lanesOf 2))) = .next t ∧
        t.cfg.legal) :=
  ⟨by decide, ⟨_, rfl, rfl, rfl, by decide⟩, ⟨_, rfl, facing_facing _ _ rfl, by decide, rfl, by decide⟩⟩

theorem witness_HardReset :
    heldSt.resetLine = true ∧ (facing heldSt (.resetLine false)).env.inputs = [.resetLine false] ∧
      (facing heldSt (.read 0xFFC 4)).env.inputs = [.read 0xFFC 4] ∧
      (facing heldSt (.write 0x08 [0, 0, 0, 0])).env.inputs = [.write 0x08 [0, 0, 0, 0]] :=
  ⟨rfl, rfl, rfl, rfl⟩

theorem witness_InterruptLevel :
    ((st []).issue 0x03000000).pend = some 0x03000000 ∧ ((st []).issue 0x03000000).resetLine = false ∧
      ((st []).issue 0x03000000).env.inputs = [] ∧ (∃ e, decode 0x03000000 = .error e) ∧
      ((st []).issue 0x00000000).pend = some 0x00000000 ∧ decode 0x00000000 = .ok .nop :=
  ⟨rfl, rfl, rfl, ⟨_, rfl⟩, rfl, rfl⟩

/-- A host that has the NTE of `st []`. -/
def hostSt : HostState := { nte := st [], drawIx := 0, yields := 0, reports := [] }

/-- Some legal parameters of a host (R251). -/
def hostParams : HostParams := { smallPrimes := [3, 5, 7], minPqDiff := fun _ => 1, attemptCap := 1, yieldPeriod := 1 }

theorem test_hostParams_legal :
    hostParams.legal ∧ ¬ { hostParams with smallPrimes := [9] }.legal ∧ ¬ { hostParams with attemptCap := 0 }.legal ∧
      ¬ { hostParams with yieldPeriod := 0 }.legal := by
  simp [HostParams.legal, hostParams]
  norm_num

-- The domain of section 4, program 3: the codes, the generator in `pt0`, its order in `x15`.
theorem test_host_domain :
    (match (loadDomain ⟨{ a := 2, b := 2, p := 17 }, some { gx := 5, gy := 1, n := 19, h := 1 }⟩).run hostSt with
      | .ok c h => c == 0 && h.nte.point 0 == .aff 5 1 && h.nte.xval 15 == 19 && h.nte.xval 14 == 0
      | .error _ _ => false) = true := by decide +kernel

-- R257: one report for each attempt number that YIELD_PERIOD divides, and the cap's failure (R251).
theorem test_host_progress :
    (match (generatePrime ⟨fun _ => 9, fun _ => 0, fun _ _ _ => 1, 0, fun _ => #v[], fun _ => false⟩
        { hostParams with attemptCap := 3, yieldPeriod := 2 } 4 true).run hostSt with
      | .ok _ _ => false
      | .error e h => e == .attemptCap && h.reports == [(.prime, 2)] && h.yields == 1) = true := by decide +kernel

theorem witness_LoadThenRead :
    hostSt.nte.HostReady ∧ fits hostSt.nte.cfg (-(2 ^ 31)) ∧ fits hostSt.nte.cfg (2 ^ 31 - 1) :=
  ⟨⟨st_ready _, rfl, rfl⟩, by decide, by decide⟩

theorem witness_RsaRoundTrip :
    hostSt.nte.HostReady ∧ Nat.Prime 61 ∧ Nat.Prime 53 ∧ 61 ≠ 53 ∧
      (65537 * 2753 : Int) % (((61 - 1) * (53 - 1) : Nat) : Int) = 1 % (((61 - 1) * (53 - 1) : Nat) : Int) ∧
      fits hostSt.nte.cfg 65537 ∧ fits hostSt.nte.cfg 2753 ∧ fits hostSt.nte.cfg (61 * 53 : Nat) ∧
      ¬ ((0 : Int) ≤ 3233 ∧ (3233 : Int) < 3233) :=
  ⟨⟨st_ready _, rfl, rfl⟩, by norm_num, by norm_num, by norm_num, by norm_num, by decide, by decide, by decide,
    by norm_num⟩

end Sys2Proof.Machine
end

section
/-! PROOFS. What a command's own run can end with, and the invariant of State under every step. -/

namespace Sys2Proof.Machine

/-! ### Points formed by the curve commands

The points a curve command can write, as one closure of the point registers' contents under PLOAD's check, the negation and
the two sums; a property of the point registers that this closure keeps is kept by every command. -/

/-- A point that the curve commands can form from the point registers and the curve context of `s` (R183 to R186, R201 to
R203). -/
inductive State.Forms (s : State) : Point → Prop where
  | register (i : PIdx) : s.Forms (s.point i)
  | inf : s.Forms .inf
  | loaded {x y : Int} : onCurve s.crv x y = true → s.Forms (.aff x y)
  | neg {P : Point} : s.Forms P → s.Forms (pneg s.crv P)
  | double {P Q : Point} : s.Forms P → pdbl s.crv P = some Q → s.Forms Q
  | add {P Q R : Point} : s.Forms P → s.Forms Q → padd s.crv P Q = some R → s.Forms R

theorem State.Forms.of_smulLoop {s : State} {bits : List Bool} {R A Q : Point} (hR : s.Forms R) (hA : s.Forms A)
    (h : (smulLoop s.crv bits R A).1 = some Q) : s.Forms Q := by
  induction bits generalizing R A with
  | nil => cases h; exact hR
  | cons b bits ih =>
    cases b with
    | false =>
      cases hD : pdbl s.crv A with
      | none => simp [Machine.smulLoop, hD] at h
      | some A' =>
        simp only [Machine.smulLoop, hD, emitBefore] at h
        exact ih hR (hA.double hD) h
    | true =>
      cases hS : padd s.crv R A with
      | none => simp [Machine.smulLoop, hS] at h
      | some R' =>
        cases hD : pdbl s.crv A with
        | none => simp [Machine.smulLoop, hS, hD] at h
        | some A' =>
          simp only [Machine.smulLoop, hS, hD, emitBefore] at h
          exact ih (hR.add hA hS) (hA.double hD) h

theorem State.Forms.of_smulctLoop {s : State} {bits : List Bool} {P0 P1 Q : Point} (h0 : s.Forms P0) (h1 : s.Forms P1)
    (h : (smulctLoop s.crv bits P0 P1).1 = some Q) : s.Forms Q := by
  induction bits generalizing P0 P1 with
  | nil => cases h; exact h0
  | cons b bits ih =>
    cases hS : padd s.crv P0 P1 with
    | none => simp [Machine.smulctLoop, hS] at h
    | some S =>
      have hF : s.Forms S := h0.add h1 hS
      cases hD : pdbl s.crv (if b then P1 else P0) with
      | none => simp [Machine.smulctLoop, hS, hD] at h
      | some D =>
        simp only [Machine.smulctLoop, hS, hD, emitBefore] at h
        cases b with
        | false => exact ih (h0.double hD) hF h
        | true => exact ih hF (h1.double hD) h

/-! ### How a command's own run ends -/

/-- The ways the own run of the command `i` can end in `s`: a code of its row of R287, the fatal end of a curve command, the
write of integer registers, of one point register, or of the curve context. -/
inductive RunEnds (i : Instr) (s : State) : Ending → Prop where
  | raise {c : Code} : c ∈ ownCodes i → RunEnds i s (.raise c)
  | fatal : needsCurve i = true → RunEnds i s .fatalDivisionByZero
  | integers (l : List (XIdx × Int)) : RunEnds i s (.complete { x := l })
  | point (pd : PIdx) {P : Point} : needsCurve i = true → s.Forms P → RunEnds i s (.complete { pt := [(pd, P)] })
  | bind (ra rb rp : XIdx) : 3 < s.xval rp → disc (s.xval ra) (s.xval rb) (s.xval rp) ≠ 0 →
      RunEnds i s (.complete { context := some ({ a := s.xval ra, b := s.xval rb, p := s.xval rp }, true) })
  | clear : RunEnds i s (.complete clearWrites)

theorem RunEnds.of_pointRun {i : Instr} {s : State} {pd : PIdx} {ev : Event} {r : Option Point} (hn : needsCurve i = true)
    (h : ∀ P, r = some P → s.Forms P) : RunEnds i s (pointRun pd ev r).ending := by
  cases r with
  | none => exact .fatal hn
  | some P => exact .point pd hn (h P rfl)

theorem RunEnds.of_scalarRun {i : Instr} {s : State} {pd : PIdx} {r : Option Point × List Event} (hn : needsCurve i = true)
    (h : ∀ P, r.1 = some P → s.Forms P) : RunEnds i s (scalarRun pd r).ending := by
  obtain ⟨_ | P, tr⟩ := r
  · exact .fatal hn
  · exact .point pd hn (h P rfl)

theorem RunEnds.of_reduceRun {i : Instr} {s : State} (rd : XIdx) (v m : Int) (free : List Event) (h : .eRange ∈ ownCodes i) :
    RunEnds i s (reduceRun rd v m free).ending := by
  unfold reduceRun
  split
  · exact .raise h
  · exact .integers _

theorem RunEnds.of_powRun {i : Instr} {s : State} (rd : XIdx) (f : Int → Nat → Int → Int × List Event) (b e m : Int)
    (h : .eRange ∈ ownCodes i) : RunEnds i s (powRun rd f b e m).ending := by
  unfold powRun
  split
  · exact .raise h
  · split
    · exact .raise h
    · exact .integers _

theorem RunEnds.of_orderRun {i : Instr} {s : State} (rd : XIdx) (r : Option (Point × Nat) × List Event)
    (hn : needsCurve i = true) (h : .sUnknown ∈ ownCodes i) : RunEnds i s (orderRun rd r).ending := by
  obtain ⟨_ | ⟨_ | _, k⟩, tr⟩ := r
  · exact .fatal hn
  · exact .integers _
  · exact .raise h

/-- Every command's own run ends in one of those ways. -/
theorem runEnds_bodyOf (i : Instr) (s : State) : RunEnds i s (bodyOf i s).ending := by
  cases i with
  | nop => exact .integers []
  | clear => exact .clear
  | mov | gcd | totient | mrtest | oncurve | pstore => exact .integers _
  | modadd | modsub | modmul => exact .of_reduceRun _ _ _ _ (by simp [ownCodes])
  | modpow | modpowct => exact .of_powRun _ _ _ _ _ (by simp [ownCodes])
  | xgcd =>
    simp only [bodyOf, xgcdRun]
    split
    · exact .raise (by simp [ownCodes])
    · exact .integers _
  | modinv =>
    simp only [bodyOf, modinvRun]
    split
    · exact .raise (by simp [ownCodes])
    · split
      · exact .raise (by simp [ownCodes])
      · exact .integers _
  | modsqrt =>
    simp only [bodyOf, modsqrtRun]
    split
    · exact .raise (by simp [ownCodes])
    · split
      · exact .raise (by simp [ownCodes])
      · split
        · exact .raise (by simp [ownCodes])
        · exact .integers _
  | curve ra rb rp =>
    simp only [bodyOf, curveRun]
    split
    · exact .raise (by simp [ownCodes])
    · split
      · exact .raise (by simp [ownCodes])
      · exact .bind ra rb rp (by omega) ‹_›
  | pload pd rx ry =>
    simp only [bodyOf, ploadRun]
    split
    · exact .point pd rfl (.loaded ‹_›)
    · exact .raise (by simp [ownCodes])
  | pinf pd => exact .point pd rfl .inf
  | pmov pd ps => exact .point pd rfl (.register ps)
  | pneg pd ps => exact .point pd rfl (.neg (.register ps))
  | padd pd ps1 ps2 => exact .of_pointRun rfl fun _ h => .add (.register ps1) (.register ps2) h
  | pdbl pd ps => exact .of_pointRun rfl fun _ h => .double (.register ps) h
  | smul pd rk ps =>
    simp only [bodyOf, smulRun]
    split
    · exact .raise (by simp [ownCodes])
    · exact .of_scalarRun rfl fun _ h => .of_smulLoop .inf (.register ps) h
  | smulct pd rk ps =>
    simp only [bodyOf, smulctRun]
    split
    · exact .raise (by simp [ownCodes])
    · exact .of_scalarRun rfl fun _ h => .of_smulctLoop .inf (.register ps) h
  | porder rd ps rmax =>
    simp only [bodyOf, porderRun]
    split
    · exact .raise (by simp [ownCodes])
    · exact .of_orderRun _ _ rfl (by simp [ownCodes])

/-- R302: no command has a host code among its own. -/
theorem isHost_of_mem_ownCodes (i : Instr) : ∀ c ∈ ownCodes i, c.isHost = false := by
  cases i <;> simp [ownCodes, Code.isHost]

/-! ### How a command ends, its shared checks included -/

/-- What a command, or a word that is none, makes of the state `s`: a code with nothing written, the fatal end on a bound curve,
or the commit of integer registers, of one point that `s` forms, or of the curve context, with FATAL clear. -/
inductive State.CommandEnds (s : State) : State → Prop where
  | raise (r : Run) {c : Code} : c.isHost = false → s.CommandEnds (s.raise r c)
  | fatal (r : Run) : s.cv = true → s.CommandEnds (s.raiseFatal r)
  | integers (l : List (XIdx × Int)) (r : Run) :
      s.CommandEnds ((l.foldl (fun t p => t.setX p.1 p.2) s).finish r .ok)
  | point (pd : PIdx) (r : Run) {P : Point} : s.cv = true → s.Forms P → s.CommandEnds ((s.setPoint pd P).finish r .ok)
  | bind (ra rb rp : XIdx) (r : Run) : s.fatal = false → 3 < s.xval rp →
      disc (s.xval ra) (s.xval rb) (s.xval rp) ≠ 0 →
      s.CommandEnds ((s.setContext { a := s.xval ra, b := s.xval rb, p := s.xval rp } true).finish r .ok)
  | clear (l : List (XIdx × Int)) (r : Run) : s.fatal = false →
      s.CommandEnds
        ((l.foldl (fun t p => t.setX p.1 p.2) (s.setContext { a := 0, b := 0, p := 0 } false)).finish r .ok)

theorem clearWrites_fit (c : Config) : clearWrites.fit c := by
  intro p hp
  obtain ⟨i, -, rfl⟩ := List.mem_map.1 hp
  exact zero_fits c

theorem State.commit_clearWrites (s : State) :
    s.commit clearWrites =
      clearWrites.x.foldl (fun t p => t.setX p.1 p.2) (s.setContext { a := 0, b := 0, p := 0 } false) := by
  simp only [State.commit, clearWrites, List.foldl_nil]

theorem State.commandEnds_conclude {s : State} {i : Instr} {r : Run} (hf : s.fatal = false)
    (hc : needsCurve i = true → s.cv = true) (h : RunEnds i s r.ending) : s.CommandEnds (s.conclude r) := by
  generalize he : r.ending = e at h
  cases h with
  | raise h => rw [State.conclude_raise he]; exact .raise r (isHost_of_mem_ownCodes i _ h)
  | fatal h => rw [State.conclude_fatal he]; exact .fatal r (hc h)
  | integers l =>
    by_cases hw : Writes.fit s.cfg { x := l }
    · rw [State.conclude_complete he hw]; exact .integers l r
    · simp only [State.conclude, he, if_neg hw]; exact .raise r rfl
  | point pd h hP => rw [State.conclude_complete he (by simp)]; exact .point pd r (hc h) hP
  | bind ra rb rp hp hd => rw [State.conclude_complete he (by simp)]; exact .bind ra rb rp r hf hp hd
  | clear =>
    rw [State.conclude_complete he (clearWrites_fit s.cfg), State.commit_clearWrites]
    exact .clear clearWrites.x r hf

theorem exec_commandEnds (i : Instr) (s : State) : ∃ t, exec i s = .next t ∧ s.CommandEnds t := by
  refine ⟨_, exec_next i s, ?_⟩
  rcases s.checked_cases i.wellFormed (needsCurve i) (bodyOf i s) with
    ⟨-, e⟩ | ⟨-, -, e⟩ | ⟨-, -, -, -, e⟩ | ⟨hf, -, hc, e⟩
  · rw [e]; exact .raise _ rfl
  · rw [e]; exact .raise _ rfl
  · rw [e]; exact .raise _ rfl
  · rw [e]; exact State.commandEnds_conclude hf hc (runEnds_bodyOf i s)

theorem runWord_commandEnds (c : Word) (s : State) : ∃ t, runWord c s = .next t ∧ s.CommandEnds t := by
  cases h : decode c with
  | ok i => rw [runWord_legal h]; exact exec_commandEnds i s
  | error e =>
    rw [runWord_illegal h]
    refine ⟨_, rfl, ?_⟩
    cases hf : s.fatal
    · rw [State.checked_illegal hf]; exact .raise _ rfl
    · rw [State.checked_fatal hf]; exact .raise _ rfl

/-! ### What one step can do -/

/-- R33, R293: the whole effect of a write to STATUS. -/
theorem writeStatus_eq (v : Word) (s : State) :
    writeStatus v s = { s with done := s.done && !v.getLsbD 1, werr := s.werr && !v.getLsbD 3 } := by
  unfold writeStatus State.acknowledge
  cases v.getLsbD 1 <;> cases v.getLsbD 3 <;> simp

/-- What one input makes of the state `s` (R69): nothing, a command's end, an answer on the bus with or without WERR, a write
to the window, or a change of the reset input. -/
inductive State.Moves (s : State) : State → Prop where
  | idle : s.Moves s
  | command {t : State} : s.CommandEnds t → s.Moves t
  | answer (r : Response) : s.Moves (s.respond r)
  | refuse (r : Response) : s.Moves (s.refuseAccess.respond r)
  | status (v : Word) (r : Response) : s.Moves ((writeStatus v s).respond r)
  | issue (v : Word) (r : Response) : s.Moves ((s.issue v).respond r)
  | ctrl (v : Word) (r : Response) : s.busy = false → s.Moves ((writeCtrl v s).respond r)
  | xsel (v : Word) (r : Response) : s.Moves ((writeXsel v s).respond r)
  | xlimb (v : Word) (r : Response) : s.Moves ((writeXlimb v s).respond r)
  | hold : s.Moves { s with resetLine := true }
  | reset : s.Moves s.toReset

theorem State.moves_engineTurn {s t : State} (h : engineTurn s = .next t) : s.Moves t := by
  unfold engineTurn at h
  split at h
  · cases h; exact .idle
  · split at h
    · next c _ =>
      obtain ⟨u, hu, hc⟩ := runWord_commandEnds c s
      cases hu.symm.trans h
      exact .command hc
    · cases h; exact .idle

theorem State.moves_busRead {s t : State} {addr n : Nat} (h : busRead addr n s = .next t) : s.Moves t := by
  by_cases hw : s.inWindow addr
  · rcases busRead_cases (n := n) hw with ⟨-, e⟩ | ⟨-, -, e⟩ | ⟨-, -, e⟩ <;> cases e.symm.trans h
    · exact .answer _
    · rcases windowRead_state (addr - s.cfg.base) s with e | ⟨-, -, e⟩ <;> rw [e]
      · exact .answer _
      · exact .refuse _
    · exact .answer _
  · cases (busRead_outside hw).symm.trans h

theorem State.moves_busWrite {s t : State} {addr : Nat} {l : List Byte} (h : busWrite addr l s = .next t) : s.Moves t := by
  by_cases hw : s.inWindow addr
  · rcases busWrite_cases (l := l) hw with ⟨-, e⟩ | ⟨-, -, e⟩ | ⟨-, -, e⟩ <;> cases e.symm.trans h
    · exact .answer _
    · rcases windowWrite_cases (addr - s.cfg.base) (wordOf l) s with
        e | ⟨-, e⟩ | ⟨-, e⟩ | ⟨-, -, e⟩ | ⟨hb, -, e⟩ | ⟨-, -, e⟩ | ⟨-, -, e⟩ <;> rw [e]
      · exact .answer _
      · exact .status _ _
      · exact .refuse _
      · exact .issue _ _
      · exact .ctrl _ _ hb
      · exact .xsel _ _
      · exact .xlimb _ _
    · exact .answer _
  · cases (busWrite_outside hw).symm.trans h

theorem State.moves_driveReset (s : State) (b : Bool) : s.Moves (driveReset b s) := by
  unfold driveReset
  split
  · exact .hold
  · split
    · exact .reset
    · exact .idle

/-- One step is one of those moves, of the state with the input taken off. -/
theorem step_moves {s t : State} (h : step s = .next t) : ∃ l, (s.popInput l).Moves t := by
  cases hi : s.env.inputs with
  | nil =>
    rw [step_no_input hi] at h
    exact ⟨s.env.inputs, s.moves_engineTurn h⟩
  | cons i l =>
    rw [step_input hi] at h
    refine ⟨l, ?_⟩
    cases i with
    | read addr n => exact State.moves_busRead h
    | write addr lanes => exact State.moves_busWrite h
    | engine => exact State.moves_engineTurn h
    | resetLine b => cases h; exact State.moves_driveReset _ b

/-! ### Reduced coordinates (R26, the range part) -/

theorem Point.Reduced.pneg {c : Curve} {P : Point} (hp : 0 < c.p) (h : P.Reduced c) : (pneg c P).Reduced c := by
  cases P with
  | inf => trivial
  | aff x y => exact ⟨h.1, h.2.1, Int.emod_nonneg _ hp.ne', Int.emod_lt_of_pos _ hp⟩

theorem Point.reduced_chordPoint {c : Curve} (hp : 0 < c.p) (lam x1 y1 x2 : Int) :
    (chordPoint c.p lam x1 y1 x2).Reduced c :=
  ⟨Int.emod_nonneg _ hp.ne', Int.emod_lt_of_pos _ hp, Int.emod_nonneg _ hp.ne', Int.emod_lt_of_pos _ hp⟩

/-- Everything a doubling can be: `Inf`, or the third point of a tangent (R202). -/
theorem pdbl_cases {c : Curve} {P Q : Point} (h : pdbl c P = some Q) :
    Q = .inf ∨
    ∃ x y lam, P = .aff x y ∧ fdiv c.p (3 * x * x + c.a) (2 * y) = some lam ∧ Q = chordPoint c.p lam x y x := by
  cases P with
  | inf => exact .inl (Option.some.inj h).symm
  | aff x y =>
    simp only [pdbl] at h
    split at h
    · exact .inl (Option.some.inj h).symm
    · obtain ⟨lam, hl, rfl⟩ := Option.map_eq_some_iff.1 h
      exact .inr ⟨x, y, lam, rfl, hl, rfl⟩

/-- Everything a sum can be: one of its operands, `Inf`, a doubling, or the third point of a chord (R203). -/
theorem padd_cases {c : Curve} {P Q R : Point} (h : padd c P Q = some R) :
    R = P ∨ R = Q ∨ R = .inf ∨ pdbl c P = some R ∨
    ∃ x1 y1 x2 y2 lam, P = .aff x1 y1 ∧ Q = .aff x2 y2 ∧ fdiv c.p (y2 - y1) (x2 - x1) = some lam ∧
      R = chordPoint c.p lam x1 y1 x2 := by
  rcases P with _ | ⟨x1, y1⟩ <;> rcases Q with _ | ⟨x2, y2⟩
  · exact .inl (Option.some.inj h).symm
  · exact .inr (.inl (Option.some.inj h).symm)
  · exact .inl (Option.some.inj h).symm
  · simp only [padd] at h
    split at h
    · exact .inr (.inr (.inl (Option.some.inj h).symm))
    · split at h
      · exact .inr (.inr (.inr (.inl h)))
      · obtain ⟨lam, hl, rfl⟩ := Option.map_eq_some_iff.1 h
        exact .inr (.inr (.inr (.inr ⟨x1, y1, x2, y2, lam, rfl, rfl, hl, rfl⟩)))

/-- On a bound curve every point that the curve commands form is reduced. -/
theorem State.Forms.reduced {s : State} (h : s.Inv) (hc : s.cv = true) {P : Point} (hP : s.Forms P) :
    P.Reduced s.crv := by
  have hp : 0 < s.crv.p := by have := (h.bound hc).1; omega
  have hd : ∀ {P Q}, pdbl s.crv P = some Q → Q.Reduced s.crv := by
    intro P Q e
    obtain rfl | ⟨x, y, lam, -, -, rfl⟩ := pdbl_cases e
    · trivial
    · exact Point.reduced_chordPoint hp lam x y x
  induction hP with
  | register i => exact h.reduced i
  | inf => trivial
  | loaded e =>
    simp only [onCurve, Bool.and_eq_true, decide_eq_true_eq] at e
    obtain ⟨⟨⟨⟨hx0, hx⟩, hy0⟩, hy⟩, -⟩ := e
    exact ⟨hx0, hx, hy0, hy⟩
  | neg _ ih => exact ih.pneg hp
  | double _ e _ => exact hd e
  | add _ _ e ihP ihQ =>
    obtain rfl | rfl | rfl | e | ⟨x1, y1, x2, _, lam, -, -, -, rfl⟩ := padd_cases e
    · exact ihP
    · exact ihQ
    · trivial
    · exact hd e
    · exact Point.reduced_chordPoint hp lam x1 y1 x2

/-! ### The invariant under a command's end and under every move -/

theorem State.inv_resetFor {c : Config} (h : c.legal) (e : Env) : (State.resetFor c e).Inv where
  legal := h
  regLength := by simp
  contextFits := ⟨zero_fits c, zero_fits c, zero_fits c⟩
  bound := by simp
  unbound := by simp [State.point]
  reduced := by simp [State.point, Point.Reduced.inf]
  pending := by simp
  noHostCode := rfl
  fatalBound := by simp

theorem State.Inv.foldl_setX {s : State} (h : s.Inv) (l : List (XIdx × Int)) :
    (l.foldl (fun t p => t.setX p.1 p.2) s).Inv := by
  induction l generalizing s with
  | nil => exact h
  | cons p l ih => exact ih (h.setX p.1 p.2)

/-- A write of a legal curve context, or of the zero context, keeps the invariant while FATAL is clear. -/
theorem State.Inv.setContext {s : State} (h : s.Inv) (hf : s.fatal = false) {c : Curve} {b : Bool}
    (hfit : fits s.cfg c.a ∧ fits s.cfg c.b ∧ fits s.cfg c.p) (hb : b = true → 3 < c.p ∧ disc c.a c.b c.p ≠ 0)
    (hu : b = false → c = { a := 0, b := 0, p := 0 }) : (s.setContext c b).Inv :=
  { h with
    contextFits := hfit
    bound := hb
    unbound := fun e => ⟨hu e, s.point_setContext c b⟩
    reduced := fun i => by rw [s.point_setContext]; trivial
    fatalBound := fun e => absurd (hf.symm.trans e) (by simp) }

theorem State.Inv.raiseFatal {s : State} (h : s.Inv) (hc : s.cv = true) (r : Run) : (s.raiseFatal r).Inv :=
  let k := h.finish r (c := .divisionByZero) rfl
  { k with
    unbound := k.unbound
    reduced := k.reduced
    fatalBound := fun _ => hc }

theorem State.Inv.commandEnds {s t : State} (h : s.Inv) (e : s.CommandEnds t) : t.Inv := by
  cases e with
  | raise r hc => exact h.finish r hc
  | fatal r hc => exact h.raiseFatal hc r
  | integers l r => exact (h.foldl_setX l).finish r rfl
  | point pd r hc hP => exact (h.setPoint hc pd (hP.reduced h hc)).finish r rfl
  | bind ra rb rp r hf hp hd =>
    have k := h.setContext hf (c := { a := s.xval ra, b := s.xval rb, p := s.xval rp }) (b := true)
      ⟨h.xval_fits ra, h.xval_fits rb, h.xval_fits rp⟩ (fun _ => ⟨hp, hd⟩) (by simp)
    exact k.finish r rfl
  | clear l r hf =>
    have z := zero_fits s.cfg
    have k := h.setContext hf (c := { a := 0, b := 0, p := 0 }) (b := false) ⟨z, z, z⟩ (by simp) fun _ => rfl
    exact (k.foldl_setX l).finish r rfl

/-- A write of a limb keeps the invariant (R36). -/
theorem State.Inv.setLimb {s : State} (h : s.Inv) (i : XIdx) (j : Nat) (v : Limb) : (s.setLimb i j v).Inv :=
  { h with
    regLength := by
      intro k
      by_cases e : k = i
      · subst e; simpa using h.regLength k
      · rw [s.x_setLimb_other j v e]; exact h.regLength k
    unbound := h.unbound
    reduced := h.reduced }

/-- WERR, CTRL.IE, XSEL, the reset input and the outside world are no part of the invariant. -/
theorem State.Inv.withControl {s : State} (h : s.Inv) (werr ie : Bool) (idx : XIdx) (limb : BitVec 16) (reset : Bool)
    (e : Env) :
    State.Inv { s with werr := werr, ie := ie, xselIdx := idx, xselLimb := limb, resetLine := reset, env := e } :=
  { h with unbound := h.unbound, reduced := h.reduced }

theorem State.Inv.refuseAccess {s : State} (h : s.Inv) : s.refuseAccess.Inv := h.withControl true _ _ _ _ _

/-- A write to STATUS clears DONE and WERR where its bits say so (R33), which the invariant allows. -/
theorem State.Inv.writeStatus {s : State} (h : s.Inv) (v : Word) : (writeStatus v s).Inv := by
  rw [writeStatus_eq]
  exact
    { h with
      pending := fun w hw => by
        obtain ⟨hcmd, hdone, hcode⟩ := h.pending w hw
        exact ⟨hcmd, by simp [hdone], hcode⟩
      unbound := h.unbound
      reduced := h.reduced }

theorem State.Inv.writeCtrl {s : State} (h : s.Inv) (v : Word) : (writeCtrl v s).Inv := by
  unfold Machine.writeCtrl
  split
  · exact State.inv_resetFor h.legal s.env
  · exact h.withControl _ (v.getLsbD 0) _ _ _ _

theorem State.Inv.writeXlimb {s : State} (h : s.Inv) (v : Word) : (writeXlimb v s).Inv := by
  unfold Machine.writeXlimb
  split
  · exact h.setLimb _ _ _
  · exact h.refuseAccess

theorem State.Inv.moves {s t : State} (h : s.Inv) (e : s.Moves t) : t.Inv := by
  cases e with
  | idle => exact h
  | command e => exact h.commandEnds e
  | answer r => exact h.withEnv _
  | refuse r => exact h.refuseAccess.withEnv _
  | status v r => exact (h.writeStatus v).withEnv _
  | issue v r => exact (h.issue v).withEnv _
  | ctrl v r => exact (h.writeCtrl v).withEnv _
  | xsel v r => exact h.withControl _ _ _ _ _ _
  | xlimb v r => exact (h.writeXlimb v).withEnv _
  | hold => exact h.withControl _ _ _ _ true _
  | reset => exact State.inv_resetFor h.legal s.env

/-- Settles O9: every move a step can be keeps the invariant. -/
theorem stepKeepsInvariant : Obligations.StepKeepsInvariant := by
  intro s t h e
  obtain ⟨l, hm⟩ := step_moves e
  exact (h.withEnv { s.env with inputs := l }).moves hm

end Sys2Proof.Machine
end

section
/-! PROOFS. The curve's congruence under the negation and the two sums, for any modulus at which their slope exists, and the
point registers under every step (R26). -/

namespace Sys2Proof.Machine

/-- The two sides of the curve's congruence (R180), subtracted. -/
def Curve.residue (c : Curve) (x y : Int) : Int := y * y - (x * x * x + c.a * x + c.b)

theorem onCurve_iff {c : Curve} {x y : Int} :
    onCurve c x y = true ↔ (Point.aff x y).Reduced c ∧ c.p ∣ c.residue x y := by
  simp only [onCurve, Bool.and_eq_true, decide_eq_true_eq, beq_iff_eq, Point.Reduced, Curve.residue,
    Int.dvd_iff_emod_eq_zero, and_assoc]

/-- What `fdiv` answers is the quotient: its divisor is invertible mod `p`, and multiplied by it gives the dividend back
(R200). -/
theorem fdiv_spec {p u v q : Int} (hp : 0 < p) (h : fdiv p u v = some q) : IsCoprime v p ∧ p ∣ q * v - u := by
  have hv : ((v % p).toNat : Int) = v % p := Int.toNat_of_nonneg (Int.emod_nonneg _ hp.ne')
  have bez := egcd_bezout (v % p).toNat p.toNat
  rw [hv, Int.toNat_of_nonneg hp.le] at bez
  unfold fdiv at h
  generalize egcd (v % p).toNat p.toNat = r at h bez
  obtain ⟨g, X, Y⟩ := r
  simp only [ite_not] at h bez
  split at h
  · obtain rfl := Option.some.inj h
    subst g
    have hX : v * X + p * (Y - v / p * X) = 1 := by
      linear_combination bez + X * (Int.emod_add_mul_ediv v p).symm
    refine ⟨⟨X, Y - v / p * X, by linear_combination hX⟩, ?_⟩
    have e : u * (X % p) % p * v ≡ u [ZMOD p] :=
      calc u * (X % p) % p * v ≡ u * X * v [ZMOD p] :=
            ((Int.mod_modEq _ _).trans ((Int.mod_modEq X p).mul_left u)).mul_right v
        _ ≡ u [ZMOD p] := Int.modEq_iff_dvd.2 ⟨u * (Y - v / p * X), by linear_combination (-u) * hX⟩
    exact e.symm.dvd
  · cases h

/-- An ordinate may be reduced before it is put into the congruence. -/
theorem Curve.dvd_residue_emod (c : Curve) {x y : Int} (h : c.p ∣ c.residue x y) : c.p ∣ c.residue x (y % c.p) := by
  have e : c.residue x (y % c.p) = c.residue x y - c.p * (y / c.p) * (y + y % c.p) := by
    unfold Curve.residue
    linear_combination (y + y % c.p) * Int.emod_add_mul_ediv y c.p
  rw [e, mul_assoc]
  exact h.sub (Dvd.intro _ rfl)

/-- The third point of a line is on the curve where the residue at its unreduced ordinate vanishes. -/
theorem Curve.on_chordPoint (c : Curve) (hp : 0 < c.p) {lam x1 y1 x2 : Int}
    (h : c.p ∣ c.residue ((lam * lam - x1 - x2) % c.p) (lam * (x1 - (lam * lam - x1 - x2) % c.p) - y1)) :
    (chordPoint c.p lam x1 y1 x2).On c :=
  onCurve_iff.2 ⟨Point.reduced_chordPoint hp lam x1 y1 x2, c.dvd_residue_emod h⟩

theorem Point.On.pneg {c : Curve} (hp : 0 < c.p) {P : Point} (h : P.On c) : (pneg c P).On c := by
  cases P with
  | inf => trivial
  | aff x y =>
    obtain ⟨hr, hd⟩ := onCurve_iff.1 h
    refine onCurve_iff.2 ⟨hr.pneg hp, c.dvd_residue_emod ?_⟩
    have e : c.residue x (c.p - y) = c.residue x y + c.p * (c.p - 2 * y) := by unfold Curve.residue; ring
    rw [e]
    exact hd.add (Dvd.intro _ rfl)

/-- The tangent at a point of the curve meets the curve again at the third point: the cubic minus the square of the line has
the point's abscissa as a double root. -/
theorem Point.On.pdbl {c : Curve} (hp : 0 < c.p) {P Q : Point} (h : P.On c) (e : pdbl c P = some Q) : Q.On c := by
  obtain rfl | ⟨x1, y1, lam, rfl, hl, rfl⟩ := pdbl_cases e
  · trivial
  · obtain ⟨-, hT⟩ := fdiv_spec hp hl
    obtain ⟨-, h1⟩ := onCurve_iff.1 h
    apply c.on_chordPoint hp
    have h3 : c.p ∣ (lam * lam - x1 - x1) % c.p - (lam * lam - x1 - x1) := (Int.mod_modEq _ _).symm.dvd
    generalize (lam * lam - x1 - x1) % c.p = x3 at h3 ⊢
    have id : c.residue x3 (lam * (x1 - x3) - y1) =
        c.residue x1 y1 + (lam * (2 * y1) - (3 * x1 * x1 + c.a)) * (x3 - x1) -
          (x3 - (lam * lam - x1 - x1)) * (x3 - x1) ^ 2 := by
      unfold Curve.residue; ring
    rw [id]
    exact (h1.add (hT.mul_right _)).sub (h3.mul_right _)

/-- The chord through two points of the curve meets the curve again at the third point: the cubic minus the square of the line
has both abscissas as roots, and their difference is invertible. -/
theorem Point.On.padd {c : Curve} (hp : 0 < c.p) {P Q R : Point} (hP : P.On c) (hQ : Q.On c)
    (e : padd c P Q = some R) : R.On c := by
  obtain rfl | rfl | rfl | e | ⟨x1, y1, x2, y2, lam, rfl, rfl, hl, rfl⟩ := padd_cases e
  · exact hP
  · exact hQ
  · trivial
  · exact hP.pdbl hp e
  · obtain ⟨hco, hL⟩ := fdiv_spec hp hl
    obtain ⟨-, h1⟩ := onCurve_iff.1 hP
    obtain ⟨-, h2⟩ := onCurve_iff.1 hQ
    apply c.on_chordPoint hp
    have h3 : c.p ∣ (lam * lam - x1 - x2) % c.p - (lam * lam - x1 - x2) := (Int.mod_modEq _ _).symm.dvd
    generalize (lam * lam - x1 - x2) % c.p = x3 at h3 ⊢
    apply hco.symm.dvd_of_dvd_mul_left
    have id : (x2 - x1) * c.residue x3 (lam * (x1 - x3) - y1) =
        c.residue x1 y1 * (x2 - x3) + c.residue x2 y2 * (x3 - x1) +
          (lam * (x2 - x1) - (y2 - y1)) * ((lam * (x2 - x1) + y1 + y2) * (x3 - x1)) -
          (x3 - (lam * lam - x1 - x2)) * ((x2 - x1) * (x3 - x1) * (x3 - x2)) := by
      unfold Curve.residue; ring
    rw [id]
    exact (((h1.mul_right _).add (h2.mul_right _)).add (hL.mul_right _)).sub (h3.mul_right _)

/-- With every point register on the curve, so is every point that the curve commands form. -/
theorem State.Forms.on {s : State} (hp : 0 < s.crv.p) (hs : ∀ i, (s.point i).On s.crv) {P : Point} (hP : s.Forms P) :
    P.On s.crv := by
  induction hP with
  | register i => exact hs i
  | inf => trivial
  | loaded e => exact e
  | neg _ ih => exact ih.pneg hp
  | double _ e ih => exact ih.pdbl hp e
  | add _ _ e ihP ihQ => exact ihP.padd hp ihQ e

/-! ### The point registers under a command's end and under every move -/

theorem State.pointsOnCurve_of_inf {s : State} (h : s.pt = Vector.replicate 8 .inf) : s.PointsOnCurve := by
  intro _ i
  have e : s.point i = .inf := by simp [State.point, h]
  rw [e]; trivial

theorem State.PointsOnCurve.of_same {s t : State} (h : s.PointsOnCurve) (hc : t.crv = s.crv) (hp : t.pt = s.pt) :
    t.PointsOnCurve := by
  intro hq i
  have e : t.point i = s.point i := by simp only [State.point, hp]
  rw [State.PrimeField, hc] at hq
  rw [e, hc]
  exact h hq i

theorem State.PointsOnCurve.setPoint {s : State} (h : s.PointsOnCurve) (i : PIdx) {P : Point}
    (hP : s.PrimeField → P.On s.crv) : (s.setPoint i P).PointsOnCurve := by
  intro hq j
  by_cases e : j = i
  · subst e; rw [s.point_setPoint_self]; exact hP hq
  · rw [s.point_setPoint_other P e]; exact h hq j

theorem State.PointsOnCurve.commandEnds {s t : State} (h : s.PointsOnCurve) (hi : s.Inv) (e : s.CommandEnds t) :
    t.PointsOnCurve := by
  cases e with
  | raise r hc => exact h.of_same rfl rfl
  | fatal r hc => exact h.of_same rfl rfl
  | integers l r =>
    obtain ⟨x', e⟩ := State.foldl_setX_eq l s
    rw [e]; exact h.of_same rfl rfl
  | point pd r hc hP =>
    have hp : 0 < s.crv.p := by have := (hi.bound hc).1; omega
    exact (h.setPoint pd fun hq => hP.on hp (h hq)).of_same rfl rfl
  | bind ra rb rp r => exact State.pointsOnCurve_of_inf rfl
  | clear l r =>
    obtain ⟨x', e⟩ := State.foldl_setX_eq l (s.setContext { a := 0, b := 0, p := 0 } false)
    rw [e]; exact State.pointsOnCurve_of_inf rfl

theorem State.PointsOnCurve.writeCtrl {s : State} (h : s.PointsOnCurve) (v : Word) : (writeCtrl v s).PointsOnCurve := by
  unfold Machine.writeCtrl
  split
  · exact State.pointsOnCurve_of_inf rfl
  · exact h.of_same rfl rfl

theorem State.PointsOnCurve.writeXlimb {s : State} (h : s.PointsOnCurve) (v : Word) : (writeXlimb v s).PointsOnCurve := by
  unfold Machine.writeXlimb
  split
  · exact h.of_same rfl rfl
  · exact h.of_same rfl rfl

theorem State.PointsOnCurve.moves {s t : State} (h : s.PointsOnCurve) (hi : s.Inv) (e : s.Moves t) : t.PointsOnCurve := by
  cases e with
  | idle => exact h
  | command e => exact h.commandEnds hi e
  | status v r => rw [writeStatus_eq]; exact h.of_same rfl rfl
  | ctrl v r => exact (h.writeCtrl v).of_same rfl rfl
  | xlimb v r => exact (h.writeXlimb v).of_same rfl rfl
  | reset => exact State.pointsOnCurve_of_inf rfl
  | answer r | refuse r | issue v r | xsel v r | hold => exact h.of_same rfl rfl

/-- Settles O10: every move a step can be keeps the point registers on the curve. -/
theorem stepKeepsPointsOnCurve : Obligations.StepKeepsPointsOnCurve := by
  intro s t hi h e
  obtain ⟨l, hm⟩ := step_moves e
  have h' : (s.popInput l).PointsOnCurve := h.of_same rfl rfl
  exact h'.moves (hi.withEnv _) hm

end Sys2Proof.Machine
end

section
/-! PROOFS. The register window: what each word reads as, what each write does, and the accesses that do nothing. -/

namespace Sys2Proof.Machine

/-! ### Writes (R33 to R36, R38, R41, R46) -/

/-- R41: while BUSY a write to CMD, CTRL, XSEL or XLIMB is refused. -/
theorem windowWrite_busy {s : State} (hb : s.busy = true) {off : Nat} (ho : off ∈ [0x08, 0x10, 0x14, 0x18]) (v : Word) :
    windowWrite off v s = s.refuseAccess := by
  simp only [List.mem_cons, List.not_mem_nil, or_false] at ho
  rcases ho with rfl | rfl | rfl | rfl <;> exact if_pos hb

theorem windowWrite_cmd {s : State} (hb : s.busy = false) (v : Word) : windowWrite 0x08 v s = s.issue v := by
  simp [windowWrite, State.unlessBusy, hb]

theorem windowWrite_status (s : State) (v : Word) : windowWrite 0x0C v s = writeStatus v s := rfl

theorem windowWrite_ctrl {s : State} (hb : s.busy = false) (v : Word) : windowWrite 0x10 v s = writeCtrl v s := by
  simp [windowWrite, State.unlessBusy, hb]

theorem windowWrite_xsel {s : State} (hb : s.busy = false) (v : Word) : windowWrite 0x14 v s = writeXsel v s := by
  simp [windowWrite, State.unlessBusy, hb]

theorem windowWrite_xlimb {s : State} (hb : s.busy = false) (v : Word) : windowWrite 0x18 v s = writeXlimb v s := by
  simp [windowWrite, State.unlessBusy, hb]

/-- R28, R38: ID, CONFIG, PTINF and the reserved words ignore a write. -/
theorem windowWrite_ignored {off : Nat} (h : off = 0x00 ∨ off = 0x04 ∨ 0x1C ≤ off) (v : Word) (s : State) :
    windowWrite off v s = s := by
  unfold windowWrite
  split
  iterate 5 · omega
  · rfl

theorem writeCtrl_reset {v : Word} (h : v.getLsbD 1 = true) (s : State) : writeCtrl v s = s.toReset := if_pos h

theorem writeCtrl_ie {v : Word} (h : v.getLsbD 1 = false) (s : State) : writeCtrl v s = { s with ie := v.getLsbD 0 } := by
  simp only [writeCtrl, h, Bool.false_eq_true, if_false]

theorem writeXsel_idx (v : Word) (s : State) : (writeXsel v s).xselIdx.val = v.toNat % 16 := rfl

theorem writeXsel_limb (v : Word) (s : State) : (writeXsel v s).xselLimb.toNat = v.toNat / 2 ^ 16 := by
  have h := v.isLt
  simp only [writeXsel, BitVec.toNat_ofNat]
  omega

theorem writeXlimb_selected {s : State} (h : s.xselLimb.toNat < s.cfg.limbs) (v : Word) :
    writeXlimb v s = s.setLimb s.xselIdx s.xselLimb.toNat v := if_pos h

theorem writeXlimb_outside {s : State} (h : s.cfg.limbs ≤ s.xselLimb.toNat) (v : Word) :
    writeXlimb v s = s.refuseAccess := if_neg (Nat.not_lt.2 h)

/-! ### Reads (R30 to R37) -/

theorem readXlimb_selected {s : State} (h : s.xselLimb.toNat < (s.x[s.xselIdx.val]).length)
    (hr : (s.x[s.xselIdx.val]).length = s.cfg.limbs) :
    readXlimb s = ((s.x[s.xselIdx.val])[s.xselLimb.toNat], s) := by
  have hl : s.xselLimb.toNat < s.cfg.limbs := hr ▸ h
  simp [readXlimb, State.limb?, hl, h]

theorem readXlimb_outside {s : State} (h : s.cfg.limbs ≤ s.xselLimb.toNat) : readXlimb s = (0, s.refuseAccess) := by
  simp [readXlimb, State.limb?, Nat.not_lt.2 h]

theorem windowRead_xlimb (s : State) : windowRead 0x18 s = readXlimb s := rfl

/-- R38: a reserved word reads 0. -/
theorem windowRead_reserved {off : Nat} (h : 0x20 ≤ off) (s : State) : windowRead off s = (0, s) := by
  unfold windowRead
  split
  iterate 8 · omega
  · rfl

theorem regBits_replicate_zero (k : Nat) : regBits (List.replicate k 0) = 0 := by
  induction k with
  | zero => rfl
  | succ k ih => rw [List.replicate_succ, regBits, ih]; rfl

/-- R65: limb `j` of a register is bits `32*j+31 : 32*j` of its stored bits. -/
theorem toNat_limb_eq (r : Reg) {j : Nat} (h : j < r.length) : (r[j]).toNat = regBits r / 2 ^ (32 * j) % 2 ^ 32 := by
  induction r generalizing j with
  | nil => simp at h
  | cons l ls ih =>
    have hl : l.toNat < 2 ^ 32 := l.isLt
    cases j with
    | zero => simp only [List.getElem_cons_zero, regBits]; omega
    | succ j =>
      have hd : regBits (l :: ls) / 2 ^ 32 = regBits ls := by rw [regBits]; omega
      rw [List.getElem_cons_succ, ih (by simpa using h), mul_add, add_comm, pow_add, ← Nat.div_div_eq_div_mul, hd]

theorem configWord_toNat {c : Config} (h : c.legal) : (configWord c).toNat = 0x08100000 + c.limbs := by
  have := h.2.1
  simp only [configWord, BitVec.toNat_ofNat]
  omega

theorem ctrlWord_eq (s : State) : ctrlWord s = if s.ie then 1 else 0 := by
  unfold ctrlWord
  cases s.ie <;> rfl

theorem xselWord_toNat (s : State) : (xselWord s).toNat = s.xselIdx.val + 2 ^ 16 * s.xselLimb.toNat := by
  have h1 := s.xselIdx.isLt
  have h2 := s.xselLimb.isLt
  simp only [xselWord, BitVec.toNat_ofNat]
  omega

/-- A sum of distinct powers of two, one for each flag that is set, is the number with those bits. -/
theorem sum_pow_eq_ofBits {n : Nat} (f : Fin n → Bool) :
    ((List.finRange n).map fun i => if f i then 2 ^ i.val else 0).sum = Nat.ofBits f := by
  induction n with
  | zero => rfl
  | succ n ih =>
    have hs : ∀ i : Fin n, (if f i.succ then 2 ^ i.succ.val else 0) = 2 * if f i.succ then 2 ^ i.val else 0 := by
      intro i; split <;> simp [pow_succ, mul_comm]
    have h0 : (if f 0 then 2 ^ (0 : Fin (n + 1)).val else 0) = (f 0).toNat := by cases f 0 <;> rfl
    rw [Nat.ofBits_succ, ← ih, List.finRange_succ, List.map_cons, List.sum_cons, List.map_map, h0, add_comm]
    simp only [Function.comp_def, hs, List.sum_map_mul_left]

/-- PTINF is the number whose bits are the flags of the point registers (R37). -/
theorem ptinfWord_eq (s : State) : ptinfWord s = BitVec.ofNat 32 (Nat.ofBits fun i : PIdx => s.point i == .inf) := by
  simp only [ptinfWord, ← sum_pow_eq_ofBits, beq_iff_eq]

theorem ptinfWord_of_inf {s : State} (h : ∀ i, s.point i = .inf) : ptinfWord s = 0xFF := by
  simp only [ptinfWord_eq, h, beq_self_eq_true]
  decide

theorem ptinfWord_lt (s : State) : (ptinfWord s).toNat < 256 := by
  have h := Nat.ofBits_lt_two_pow fun i : PIdx => s.point i == .inf
  rw [ptinfWord_eq, BitVec.toNat_ofNat]
  omega

theorem getLsbD_ptinfWord (s : State) (i : PIdx) : (ptinfWord s).getLsbD i.val = (s.point i == .inf) := by
  have hi : i.val < 32 := by omega
  rw [ptinfWord_eq, BitVec.getLsbD_ofNat, Nat.testBit_ofBits_lt _ _ i.isLt]
  simp [hi]

/-! ### STATUS (R33, R281) -/

theorem Code.number_le (c : Code) : c.number ≤ 0x17 := by cases c <;> decide

theorem statusWord_toNat (s : State) :
    (statusWord s).toNat =
      s.busy.toNat + 2 * s.done.toNat + 4 * s.fatal.toNat + 8 * s.werr.toNat + 16 * s.cv.toNat + 256 * s.code.number := by
  have h1 := s.busy.toNat_le
  have h2 := s.done.toNat_le
  have h3 := s.fatal.toNat_le
  have h4 := s.werr.toNat_le
  have h5 := s.cv.toNat_le
  have h6 := s.code.number_le
  simp only [statusWord, BitVec.toNat_ofNat]
  omega

/-- A bit of STATUS is read off its number. -/
theorem getLsbD_statusWord (s : State) (i : Nat) :
    (statusWord s).getLsbD i = decide ((statusWord s).toNat / 2 ^ i % 2 = 1) := by
  rw [← BitVec.testBit_toNat, Nat.testBit_eq_decide_div_mod_eq]

end Sys2Proof.Machine
end

section
/-! PROOFS. The statements about the step of one bus access and of the engine, about reset and about `irq`. -/

namespace Sys2Proof.Machine

/-! ### Refused accesses (R41, R64) -/

/-- Settles O48, by `windowWrite_busy`, the equation of a STATUS write, and `step_read`. -/
theorem writesRefusedWhileBusy : Obligations.WritesRefusedWhileBusy := by
  intro s off w rest hb
  refine ⟨fun ho hf => ?_, fun hf => ?_, fun ha ho hf => ?_⟩
  · have hr : off < 4096 ∧ off % 4 = 0 := by
      simp only [List.mem_cons, List.not_mem_nil, or_false] at ho
      omega
    have hb' : (s.popInput rest).busy = true := hb
    rw [step_write hr.1 hr.2 hf, windowWrite_busy hb' ho]
    rfl
  · refine ⟨_, step_write (by norm_num) (by norm_num) hf, ?_⟩
    rw [windowWrite_status, writeStatus_eq]
    rfl
  · exact ⟨_, _, step_read ho ha hf, rfl⟩

theorem step_read_busError {s : State} {off n : Nat} {rest : List Input} (ho : off < 4096) (h : n ≠ 4 ∨ off % 4 ≠ 0)
    (hf : s.Facing (.read (s.cfg.base + off) n) rest) : step s = .next (s.answered rest .busError) := by
  have hw : (s.popInput rest).inWindow (s.cfg.base + off) := inWindow_offset s ho
  have hacc : ¬ (s.popInput rest).accepted (s.cfg.base + off) n := by
    rintro ⟨h4, hm⟩
    rw [State.popInput_cfg, Nat.add_sub_cancel_left] at hm
    omega
  rw [step_input hf.2, applyInput]
  rcases busRead_cases (n := n) hw with ⟨hr, -⟩ | ⟨-, ha, -⟩ | ⟨-, -, e⟩
  · exact absurd (hf.1.symm.trans hr) (by simp)
  · exact absurd ha hacc
  · exact e

theorem step_write_busError {s : State} {off : Nat} {l : List Byte} {rest : List Input} (ho : off < 4096)
    (h : l.length ≠ 4 ∨ off % 4 ≠ 0) (hf : s.Facing (.write (s.cfg.base + off) l) rest) :
    step s = .next (s.answered rest .busError) := by
  have hw : (s.popInput rest).inWindow (s.cfg.base + off) := inWindow_offset s ho
  have hacc : ¬ (s.popInput rest).accepted (s.cfg.base + off) l.length := by
    rintro ⟨h4, hm⟩
    rw [State.popInput_cfg, Nat.add_sub_cancel_left] at hm
    omega
  rw [step_input hf.2, applyInput]
  rcases busWrite_cases (l := l) hw with ⟨hr, -⟩ | ⟨-, ha, -⟩ | ⟨-, -, e⟩
  · exact absurd (hf.1.symm.trans hr) (by simp)
  · exact absurd ha hacc
  · exact e

/-- Settles O55: the window ignores the write, or the access is not accepted. -/
theorem accessesWithoutEffect : Obligations.AccessesWithoutEffect := by
  intro s off n w lanes rest ho
  refine ⟨fun ha hi hf => ?_, step_read_busError ho, step_write_busError ho⟩
  rw [step_write ho ha hf, windowWrite_ignored hi]
  rfl

/-! ### Writes of the window (R33 to R36, R46) -/

/-- Settles O47, by `windowWrite_cmd`. -/
theorem commandIssue : Obligations.CommandIssue := by
  intro s w rest hb hf
  have hb' : (s.popInput rest).busy = false := hb
  rw [step_write (by norm_num) (by norm_num) hf, windowWrite_cmd hb']
  rfl

/-- Settles O49, by `writeStatus_eq`. -/
theorem statusWrite : Obligations.StatusWrite := by
  intro s w rest hf
  rw [step_write (by norm_num) (by norm_num) hf, windowWrite_status, writeStatus_eq]
  rfl

/-- Settles O51, by the two cases of SRST. -/
theorem ctrlWrite : Obligations.CtrlWrite := by
  intro s w rest hb hf
  have hb' : (s.popInput rest).busy = false := hb
  rw [step_write (by norm_num) (by norm_num) hf, windowWrite_ctrl hb']
  refine ⟨fun h => ?_, fun h => ?_⟩
  · rw [writeCtrl_reset h]; rfl
  · rw [writeCtrl_ie h]; rfl

/-- R36: a limb write changes that limb of that register and no other. -/
theorem State.limb?_setLimb_ne (s : State) {i k : XIdx} {j m : Nat} (v : Limb) (h : (k, m) ≠ (i, j)) :
    (s.setLimb i j v).limb? k m = s.limb? k m := by
  by_cases hk : k = i
  · subst hk
    exact s.limb?_setLimb_other k v fun hm => h (by rw [hm])
  · simp only [State.limb?, s.x_setLimb_other j v hk, State.setLimb_cfg]

/-- Settles O52, by what a write to XSEL stores and by the two cases of the selected limb. -/
theorem limbPortWrite : Obligations.LimbPortWrite := by
  intro s w rest hi hb
  have hb' : (s.popInput rest).busy = false := hb
  refine ⟨fun hf => ?_, fun hf hl => ?_, fun hf hl => ?_⟩
  · refine ⟨writeXsel w s, ?_, writeXsel_idx w s, writeXsel_limb w s, rfl⟩
    rw [step_write (by norm_num) (by norm_num) hf, windowWrite_xsel hb']
    rfl
  · have hl' : (s.popInput rest).cfg.limbs ≤ (s.popInput rest).xselLimb.toNat := hl
    rw [step_write (by norm_num) (by norm_num) hf, windowWrite_xlimb hb', writeXlimb_outside hl']
    rfl
  · have hl' : (s.popInput rest).xselLimb.toNat < (s.popInput rest).cfg.limbs := hl
    refine ⟨s.setLimb s.xselIdx s.xselLimb.toNat w, ?_, rfl, ?_, fun i j => s.limb?_setLimb_ne w⟩
    · rw [step_write (by norm_num) (by norm_num) hf, windowWrite_xlimb hb', writeXlimb_selected hl']
      rfl
    · exact s.limb?_setLimb_self _ _ w hl (hi.regLength _)

/-! ### Reads of the window (R30 to R38) -/

/-- Settles O53, by the two cases of the selected limb. -/
theorem limbPortRead : Obligations.LimbPortRead := by
  intro s rest hi hf
  rw [step_read (by norm_num) (by norm_num) hf]
  refine ⟨fun hl => ?_, fun hl => ?_⟩
  · have hj : s.xselLimb.toNat < (s.x[s.xselIdx.val]).length := by rw [hi.regLength]; exact hl
    refine ⟨(s.x[s.xselIdx.val])[s.xselLimb.toNat], ?_, toNat_limb_eq _ hj⟩
    rw [windowRead_xlimb, readXlimb_selected (s := s.popInput rest) hj (hi.regLength _)]
    rfl
  · have hl' : (s.popInput rest).cfg.limbs ≤ (s.popInput rest).xselLimb.toNat := hl
    rw [windowRead_xlimb, readXlimb_outside hl']
    rfl

/-- Every word but XLIMB's is read without an effect, and its value does not depend on the outside world. -/
theorem windowRead_popInput {off : Nat} (h : off ≠ 0x18) (s : State) (rest : List Input) :
    windowRead off (s.popInput rest) = ((windowRead off s).1, s.popInput rest) := by
  unfold windowRead
  split
  case h_7 => exact absurd rfl h
  all_goals rfl

/-- Settles O54, offset by offset. -/
theorem windowReads : Obligations.WindowReads := by
  intro s off rest hi ha ho hx hf
  refine ⟨(windowRead off s).1, ?_, ?_, ?_, ?_, ?_, ?_, ?_, ?_, ?_⟩
  · rw [step_read ho ha hf, windowRead_popInput hx]
    rfl
  · rintro rfl; rfl
  · rintro rfl; exact configWord_toNat hi.legal
  · rintro rfl; rfl
  · rintro rfl; rfl
  · rintro rfl; exact ctrlWord_eq s
  · rintro rfl; exact xselWord_toNat s
  · rintro rfl; exact ⟨ptinfWord_lt s, getLsbD_ptinfWord s⟩
  · intro h; rw [windowRead_reserved h]

/-- The bit of a flag that STATUS's number holds at its place. -/
theorem getLsbD_statusWord_eq {s : State} {i : Nat} {b : Bool} (h : (statusWord s).toNat / 2 ^ i % 2 = b.toNat) :
    (statusWord s).getLsbD i = b := by
  rw [getLsbD_statusWord, h]
  cases b <;> rfl

/-- Settles O50: every field is a digit of `statusWord_toNat`. -/
theorem statusFields : Obligations.StatusFields := by
  intro s
  have hn := statusWord_toNat s
  have h1 := s.busy.toNat_le
  have h2 := s.done.toNat_le
  have h3 := s.fatal.toNat_le
  have h4 := s.werr.toNat_le
  have h5 := s.cv.toNat_le
  have hb : (statusWord s).getLsbD 0 = s.busy := getLsbD_statusWord_eq (by omega)
  refine ⟨hb, getLsbD_statusWord_eq (by omega), getLsbD_statusWord_eq (by omega), getLsbD_statusWord_eq (by omega),
    getLsbD_statusWord_eq (by omega), fun i hl hu => getLsbD_statusWord_eq ?_, by omega, ?_⟩
  · have e : (false : Bool).toNat = 0 := rfl
    interval_cases i <;> omega
  · decide

/-! ### The engine's turn (R40, R45, R69) -/

/-- Settles O5: each way to the engine's turn runs the pending word, which is legal. -/
theorem stepRunsDecodedCommand : Obligations.StepRunsDecodedCommand := by
  refine ⟨fun s c i hr hp hd => ⟨fun hi => ?_, fun rest hi => ?_⟩, fun s w i hd => ?_, fun s hp hi => ?_⟩
  · rw [step_no_input hi, engineTurn_pending hr hp, runWord_legal hd]
  · have hr' : (s.popInput rest).resetLine = false := hr
    have hp' : (s.popInput rest).pend = some c := hp
    rw [step_input hi, applyInput, engineTurn_pending hr' hp', runWord_legal hd]
  · have hw : BitVec.ofNat 32 (w.toNat % 2 ^ 32) = w := by
      rw [Nat.mod_eq_of_lt w.isLt, BitVec.ofNat_toNat, BitVec.setWidth_eq]
    rw [State.withFetchWord, hw]
    have hs : (s.placeWord w).env.inputs = .engine :: s.env.inputs := rfl
    have hr : ((s.placeWord w).popInput s.env.inputs).resetLine = false := rfl
    have hp : ((s.placeWord w).popInput s.env.inputs).pend = some w := rfl
    rw [step_input hs, applyInput, engineTurn_pending hr hp, runWord_legal hd]
    rfl
  · rw [step_no_input hi, engineTurn_idle hp]

/-! ### Reset and interrupt (R47, R50) -/

/-- Settles O8: every field of the reset state, once for all parameters. -/
theorem resetHasInvariant : Obligations.ResetHasInvariant :=
  ⟨fun _ e hc => ⟨State.inv_resetFor hc e, State.pointsOnCurve_of_inf rfl⟩, State.inv_resetFor (by decide) Env.initial⟩

/-- R50: each way to reset the NTE ends in the reset state of its own parameters. -/
theorem eq_resetFor_of_reset {t : State}
    (h : t = State.reset ∨
      (∃ s rest, s.resetLine = true ∧ s.env.inputs = .resetLine false :: rest ∧ step s = .next t) ∨
      (∃ s rest w, s.busy = false ∧ s.Facing (.write (s.cfg.base + 0x10) (lanesOf w)) rest ∧ w.getLsbD 1 = true ∧
        step s = .next t)) :
    ∃ e, t = State.resetFor t.cfg e := by
  rcases h with rfl | ⟨s, rest, hr, hi, hs⟩ | ⟨s, rest, w, hb, hf, hw, hs⟩
  · exact ⟨_, rfl⟩
  · have hr' : (s.popInput rest).resetLine = true := hr
    rw [step_input hi] at hs
    simp only [applyInput, driveReset, hr', Bool.false_eq_true, if_false, if_true] at hs
    cases hs
    exact ⟨_, rfl⟩
  · cases ((ctrlWrite s w rest hb hf).1 hw).symm.trans hs
    exact ⟨_, rfl⟩

/-- Settles O56: each field of the reset state, as the window reads it. -/
theorem resetValues : Obligations.ResetValues := by
  intro t hc h
  obtain ⟨e, ht⟩ := eq_resetFor_of_reset h
  generalize t.cfg = c at hc ht
  subst ht
  have hx : ∀ i : XIdx, (State.resetFor c e).x[i.val] = List.replicate c.limbs 0 := by simp
  have hp : ∀ i, (State.resetFor c e).point i = .inf := by simp [State.point]
  have h0 : 0 < c.limbs := hc.1
  refine ⟨fun i => ⟨?_, ?_⟩, hp, rfl, rfl, rfl, rfl, rfl, rfl, rfl, rfl, rfl, rfl, ?_, ptinfWord_of_inf hp, rfl,
    configWord_toNat hc, rfl, rfl⟩
  · rw [State.xval, hx, regVal_replicate_zero]
  · rw [hx, regBits_replicate_zero]
  · simp [windowRead_xlimb, readXlimb, State.limb?, h0]

/-- R47: after a command's end `irq` is CTRL.IE. -/
theorem State.CommandEnds.irq {s t : State} (h : s.CommandEnds t) : t.irq = s.ie := by
  have k : ∀ (u : State) (r : Run) (c : Code), (u.finish r c).irq = u.ie := fun u _ _ => Bool.true_and u.ie
  cases h with
  | raise r => exact k s r _
  | fatal r => exact k s r .divisionByZero
  | integers l r =>
    obtain ⟨x', e⟩ := State.foldl_setX_eq l s
    rw [e]; exact k _ r _
  | point pd r => exact k _ r _
  | bind ra rb rp r => exact k _ r _
  | clear l r =>
    obtain ⟨x', e⟩ := State.foldl_setX_eq l (s.setContext { a := 0, b := 0, p := 0 } false)
    rw [e]; exact k _ r _

/-- Settles O58, by `State.CommandEnds.irq`, which a legal and an illegal word share. -/
theorem interruptLevel : Obligations.InterruptLevel := by
  refine ⟨fun i s => ?_, fun s c hp hr hi => ?_, fun s w => ⟨rfl, rfl, rfl⟩⟩
  · obtain ⟨t, ht, he⟩ := exec_commandEnds i s
    exact ⟨t, ht, he.irq⟩
  · obtain ⟨t, ht, he⟩ := runWord_commandEnds c s
    exact ⟨t, by rw [step_no_input hi, engineTurn_pending hr hp, ht], he.irq⟩

end Sys2Proof.Machine
end

section
/-! PROOFS. The host's recipes that load and read an integer register through the limb port (20_memory.md section 5, R36). -/

namespace Sys2Proof.Machine

/-! ### Registers as lists of limbs -/

theorem regBits_append (a b : Reg) : regBits (a ++ b) = regBits a + 2 ^ (32 * a.length) * regBits b := by
  induction a with
  | nil => simp [regBits]
  | cons l ls ih =>
    rw [List.cons_append, regBits, regBits, ih, List.length_cons, mul_add 32, pow_add]
    ring

theorem regBits_take_succ {r : Reg} {n : Nat} (h : n < r.length) :
    regBits (r.take (n + 1)) = regBits (r.take n) + (r[n]).toNat * 2 ^ (32 * n) := by
  rw [List.take_succ_eq_append_getElem h, regBits_append, List.length_take_of_le h.le]
  simp [regBits, mul_comm]

theorem getElem?_regOfBits {k j : Nat} (h : j < k) (u : Nat) :
    (regOfBits k u)[j]? = some (BitVec.ofNat 32 (u / 2 ^ (32 * j))) := by
  induction k generalizing j u with
  | zero => omega
  | succ k ih =>
    cases j with
    | zero => simp [regOfBits]
    | succ j =>
      rw [regOfBits, List.getElem?_cons_succ, ih (by omega), Nat.div_div_eq_div_mul, ← pow_add]
      congr 4
      ring

/-! ### The limb port as the host drives it -/

/-- `s` with limb `j` of register `i` selected (R35). -/
def State.select (s : State) (i : XIdx) (j : Nat) : State := { s with xselIdx := i, xselLimb := BitVec.ofNat 16 j }

theorem writeXsel_xselFor (s : State) (i : XIdx) {j : Nat} (hj : j < 2 ^ 16) :
    writeXsel (xselFor i j) s = s.select i j := by
  have hi := i.isLt
  have hw : (xselFor i j).toNat = j * 2 ^ 16 + i.val := by
    simp only [xselFor, BitVec.toNat_ofNat]
    omega
  have h1 : Fin.ofNat 16 (j * 2 ^ 16 + i.val) = i := Fin.ext (by simp only [Fin.ofNat]; omega)
  have h2 : (j * 2 ^ 16 + i.val) / 2 ^ 16 = j := by omega
  simp only [writeXsel, hw, h1, h2, State.select]

theorem State.select_limb (s : State) (i : XIdx) {j : Nat} (hj : j < 2 ^ 16) : (s.select i j).xselLimb.toNat = j := by
  simp only [State.select, BitVec.toNat_ofNat]
  omega

/-- An XSEL write and an XLIMB write of an idle NTE write the limb they name. -/
theorem windowWrite_limb {s : State} (hp : s.pend = none) (hL : s.cfg.limbs ≤ 65535) (i : XIdx) {j : Nat}
    (hj : j < s.cfg.limbs) (w : Word) :
    windowWrite 0x18 w (windowWrite 0x14 (xselFor i j) s) = (s.select i j).setLimb i j w := by
  have hb : s.busy = false := by simp [State.busy, hp]
  have hb' : (s.select i j).busy = false := hb
  have hl := s.select_limb i (j := j) (by omega)
  have hj' : (s.select i j).xselLimb.toNat < (s.select i j).cfg.limbs := by rw [hl]; exact hj
  rw [windowWrite_xsel hb, writeXsel_xselFor s i (by omega), windowWrite_xlimb hb', writeXlimb_selected hj', hl]
  rfl

/-- An XSEL write and an XLIMB read of an idle NTE read the limb they name. -/
theorem windowRead_limb {s : State} (hp : s.pend = none) (hL : s.cfg.limbs ≤ 65535) (i : XIdx) {j : Nat}
    (hr : (s.x[i.val]).length = s.cfg.limbs) (hj : j < (s.x[i.val]).length) :
    windowRead 0x18 (windowWrite 0x14 (xselFor i j) s) = ((s.x[i.val])[j], s.select i j) := by
  have hb : s.busy = false := by simp [State.busy, hp]
  have hl := s.select_limb i (j := j) (by omega)
  have hj' : (s.select i j).xselLimb.toNat < ((s.select i j).x[(s.select i j).xselIdx.val]).length := by rw [hl]; exact hj
  rw [windowWrite_xsel hb, writeXsel_xselFor s i (by omega), windowRead_xlimb, readXlimb_selected hj' hr]
  simp only [hl]
  rfl

/-! ### The two loops -/

/-- `t` is `s` after the first `n` limbs of the number `u` were loaded into register `i`, XSEL aside. -/
structure State.Loaded (s t : State) (i : XIdx) (u n : Nat) : Prop where
  cfg : t.cfg = s.cfg
  idle : t.pend = none
  regLength : ∀ j : XIdx, (t.x[j.val]).length = s.cfg.limbs
  limbs : ∀ j < n, (t.x[i.val])[j]? = some (BitVec.ofNat 32 (u / 2 ^ (32 * j)))
  others : ∀ j : XIdx, j ≠ i → t.x[j.val] = s.x[j.val]

/-- The next limb's turn. -/
theorem State.Loaded.succ {s t : State} {i : XIdx} {u n : Nat} (h : s.Loaded t i u n) (hn : n < s.cfg.limbs) :
    s.Loaded ((t.select i n).setLimb i n (BitVec.ofNat 32 (u / 2 ^ (32 * n)))) i u (n + 1) where
  cfg := h.cfg
  idle := h.idle
  regLength := by
    intro k
    by_cases e : k = i
    · subst e; simpa [State.select] using h.regLength k
    · rw [State.x_setLimb_other _ n _ e]; exact h.regLength k
  limbs := by
    intro j hj
    have hx : ((t.select i n).setLimb i n (BitVec.ofNat 32 (u / 2 ^ (32 * n)))).x[i.val] =
        (t.x[i.val]).set n (BitVec.ofNat 32 (u / 2 ^ (32 * n))) := by simp [State.select]
    rw [hx]
    by_cases e : j = n
    · subst e; exact List.getElem?_set_self (by rw [h.regLength]; exact hn)
    · rw [List.getElem?_set_ne (Ne.symm e)]; exact h.limbs j (by omega)
  others := fun k e => (State.x_setLimb_other _ n _ e).trans (h.others k e)

/-- A register whose limbs are all loaded holds the number. -/
theorem State.Loaded.reg_eq {s t : State} {i : XIdx} {u : Nat} (h : s.Loaded t i u s.cfg.limbs) :
    t.x[i.val] = regOfBits s.cfg.limbs u := by
  apply List.ext_getElem?
  intro j
  by_cases hj : j < s.cfg.limbs
  · rw [h.limbs j hj, getElem?_regOfBits hj]
  · rw [List.getElem?_eq_none (by rw [h.regLength]; omega), List.getElem?_eq_none (by rw [regOfBits_length]; omega)]

/-- One pass of the load recipe: limb `j` of the number `u`. -/
def loadLimb (i : XIdx) (u j : Nat) : HostM Unit := do
  hostWrite 0x14 (xselFor i j)
  hostWrite 0x18 (BitVec.ofNat 32 (u / 2 ^ (32 * j)))

theorem loadX_eq (i : XIdx) (v : Int) (h : HostState) :
    (loadX i v).run h =
      (forM (List.range h.nte.cfg.limbs) (loadLimb i (v % 2 ^ h.nte.cfg.width).toNat)).run h := by
  unfold loadX loadLimb
  rw [EStateM.run_bind, EStateM.run_get]
  rfl

theorem loadLimb_run (i : XIdx) (u j : Nat) (h : HostState) :
    (loadLimb i u j).run h =
      .ok () { h with
        nte := windowWrite 0x18 (BitVec.ofNat 32 (u / 2 ^ (32 * j))) (windowWrite 0x14 (xselFor i j) h.nte) } := rfl

/-- The load loop, after its first `n` passes. -/
theorem loadLoop_run {h : HostState} (hr : h.nte.HostReady) (i : XIdx) (u : Nat) {n : Nat} (hn : n ≤ h.nte.cfg.limbs) :
    ∃ h', (forM (List.range n) (loadLimb i u)).run h = .ok () h' ∧ h.nte.Loaded h'.nte i u n := by
  obtain ⟨⟨hinv, -⟩, hidle, -⟩ := hr
  induction n with
  | zero => exact ⟨h, rfl, rfl, hidle, hinv.regLength, by simp, fun _ _ => rfl⟩
  | succ n ih =>
    obtain ⟨h', hrun, hl⟩ := ih (by omega)
    have hL : h'.nte.cfg.limbs ≤ 65535 := hl.cfg ▸ hinv.legal.2.1
    have hn' : n < h'.nte.cfg.limbs := by rw [hl.cfg]; omega
    refine ⟨{ h' with nte := (h'.nte.select i n).setLimb i n (BitVec.ofNat 32 (u / 2 ^ (32 * n))) }, ?_, hl.succ hn⟩
    rw [List.range_succ, List.forM_append, EStateM.run_bind, hrun]
    exact (loadLimb_run i u n h').trans (by rw [windowWrite_limb hl.idle hL i hn'])

theorem loadX_run {h : HostState} (hr : h.nte.HostReady) (i : XIdx) (v : Int) :
    ∃ h', (loadX i v).run h = .ok () h' ∧
      h.nte.Loaded h'.nte i (v % 2 ^ h.nte.cfg.width).toNat h.nte.cfg.limbs := by
  rw [loadX_eq]
  exact loadLoop_run hr i _ le_rfl

/-- One pass of the read recipe: limb `j` added to the number read so far. -/
def readLimb (i : XIdx) (u j : Nat) : HostM Nat := do
  hostWrite 0x14 (xselFor i j)
  let w ← hostRead 0x18
  pure (u + w.toNat * 2 ^ (32 * j))

theorem readX_eq (i : XIdx) (h : HostState) :
    (readX i).run h =
      ((List.range h.nte.cfg.limbs).foldlM (readLimb i) 0 >>= fun u => pure (sext h.nte.cfg.width u)).run h := rfl

theorem readLimb_run (i : XIdx) (u j : Nat) (h : HostState) :
    (readLimb i u j).run h =
      .ok (u + (windowRead 0x18 (windowWrite 0x14 (xselFor i j) h.nte)).1.toNat * 2 ^ (32 * j))
        { h with nte := (windowRead 0x18 (windowWrite 0x14 (xselFor i j) h.nte)).2 } := rfl

/-- The read loop, after its first `n` passes: it has the number of the first `n` limbs, and moved XSEL only. -/
theorem readLoop_run {h : HostState} (hp : h.nte.pend = none) (hL : h.nte.cfg.limbs ≤ 65535) (i : XIdx)
    (hr : (h.nte.x[i.val]).length = h.nte.cfg.limbs) {n : Nat} (hn : n ≤ h.nte.cfg.limbs) :
    ∃ h', ((List.range n).foldlM (readLimb i) 0).run h = .ok (regBits ((h.nte.x[i.val]).take n)) h' ∧
      h'.nte.cfg = h.nte.cfg ∧ h'.nte.pend = none ∧ h'.nte.x = h.nte.x := by
  induction n with
  | zero => exact ⟨h, rfl, rfl, hp, rfl⟩
  | succ n ih =>
    obtain ⟨h', hrun, hc, hp', hx⟩ := ih (by omega)
    have hj : n < (h.nte.x[i.val]).length := by omega
    have hread : windowRead 0x18 (windowWrite 0x14 (xselFor i n) h'.nte) = ((h.nte.x[i.val])[n], h'.nte.select i n) := by
      rw [windowRead_limb hp' (by rw [hc]; exact hL) i (by rw [hx, hc]; exact hr) (by rw [hx]; exact hj)]
      simp only [hx]
    refine ⟨{ h' with nte := h'.nte.select i n }, ?_, hc, hp', hx⟩
    rw [List.range_succ, List.foldlM_append, EStateM.run_bind, hrun]
    simp only [List.foldlM_cons, List.foldlM_nil, bind_pure]
    rw [readLimb_run, hread, regBits_take_succ hj]

theorem readX_run {h : HostState} (hp : h.nte.pend = none) (hL : h.nte.cfg.limbs ≤ 65535) (i : XIdx)
    (hr : (h.nte.x[i.val]).length = h.nte.cfg.limbs) : ∃ h', (readX i).run h = .ok (h.nte.xval i) h' := by
  obtain ⟨h', hrun, -⟩ := readLoop_run hp hL i hr le_rfl
  refine ⟨h', ?_⟩
  rw [readX_eq, EStateM.run_bind, hrun, ← hr, List.take_length, State.xval, regVal, hr]
  rfl

/-- Settles O59: after the load loop the register holds the two's complement of `v`, and the read loop gives it back. -/
theorem loadThenRead : Obligations.LoadThenRead := by
  intro h i v hr hv
  obtain ⟨h', hrun, hl⟩ := loadX_run hr i v
  obtain ⟨⟨hinv, -⟩, -, -⟩ := hr
  have hx : h'.nte.xval i = v := by
    rw [State.xval, hl.reg_eq]
    exact regVal_regOfVal hinv.legal.1 hv
  obtain ⟨h'', hread⟩ := readX_run (i := i) hl.idle (hl.cfg ▸ hinv.legal.2.1) (by rw [hl.cfg]; exact hl.regLength i)
  exact ⟨h', h'', hrun, hx, hl.others, hx ▸ hread⟩

end Sys2Proof.Machine
end

section
/-! PROOFS. What can stop the machine: a bus access outside the window, and nothing else (R60, R61). -/

namespace Sys2Proof.Machine

theorem engineTurn_next (s : State) : ∃ t, engineTurn s = .next t := by
  cases hp : s.pend with
  | none => exact ⟨s, engineTurn_idle hp⟩
  | some c =>
    cases hr : s.resetLine with
    | true => exact ⟨s, if_pos hr⟩
    | false =>
      obtain ⟨t, ht, -⟩ := runWord_commandEnds c s
      exact ⟨t, (engineTurn_pending hr hp).trans ht⟩

theorem busRead_next {addr n : Nat} {s : State} (h : s.inWindow addr) : ∃ t, busRead addr n s = .next t := by
  rcases busRead_cases (n := n) h with ⟨-, e⟩ | ⟨-, -, e⟩ | ⟨-, -, e⟩ <;> exact ⟨_, e⟩

theorem busWrite_next {addr : Nat} {l : List Byte} {s : State} (h : s.inWindow addr) :
    ∃ t, busWrite addr l s = .next t := by
  rcases busWrite_cases (l := l) h with ⟨-, e⟩ | ⟨-, -, e⟩ | ⟨-, -, e⟩ <;> exact ⟨_, e⟩

/-- Settles O7, by the kind of the next input: only a bus access asks where its address is. -/
theorem onlyForeignAddressesStop : Obligations.OnlyForeignAddressesStop := by
  intro s
  cases hi : s.env.inputs with
  | nil => rw [step_no_input hi]; exact .inl (engineTurn_next s)
  | cons i rest =>
    rw [step_input hi]
    cases i with
    | read addr n =>
      by_cases hw : (s.popInput rest).inWindow addr
      · exact .inl (busRead_next hw)
      · exact .inr ⟨busRead_outside hw, addr, rest, .inl ⟨n, rfl⟩, hw⟩
    | write addr l =>
      by_cases hw : (s.popInput rest).inWindow addr
      · exact .inl (busWrite_next hw)
      · exact .inr ⟨busWrite_outside hw, addr, rest, .inr ⟨l, rfl⟩, hw⟩
    | engine => exact .inl (engineTurn_next _)
    | resetLine b => exact .inl ⟨_, rfl⟩

end Sys2Proof.Machine
end

section
/-! PROOFS. The encoding of commands (30_encoding.md): a command word and its fields determine each other (R91, R92, R101),
the decoder and the encoder invert each other, and the words that decode are those that match a row of R95. -/

namespace Sys2Proof

/-! ### The rows of the opcode table (R95) -/

theorem Opcode.byte_lt (o : Opcode) : o.byte < 256 := by cases o <;> decide

theorem Opcode.mem_all (o : Opcode) : o ∈ Opcode.all := by cases o <;> decide

theorem Opcode.ofByte_eq_some_iff {n : Nat} {o : Opcode} : Opcode.ofByte n = some o ↔ n = o.byte := by
  constructor
  · intro h
    exact (beq_iff_eq.mp (List.find?_some (p := fun o : Opcode => o.byte == n) h)).symm
  · rintro rfl
    cases o <;> decide

/-! ### A word and its fields (R91, R92, R101) -/

/-- R91, R92: the register fields and `z` are four bits wide and `imm8` is eight. -/
structure Fields.WithinWidths (f : Fields) : Prop where
  f1 : f.f1 < 16
  f2 : f.f2 < 16
  f3 : f.f3 < 16
  f4 : f.f4 < 16
  f5 : f.f5 < 16
  z : f.z < 16
  imm8 : f.imm8 < 256

theorem fieldsOf_withinWidths (w : Word) : (fieldsOf w).WithinWidths := by
  constructor <;> exact Nat.mod_lt _ (by decide)

theorem packR_eq_iff {o : Opcode} {v1 v2 v3 v4 v5 : Nat} {w : Word} (h1 : v1 < 16) (h2 : v2 < 16) (h3 : v3 < 16)
    (h4 : v4 < 16) (h5 : v5 < 16) :
    packR o v1 v2 v3 v4 v5 = w ↔ (fieldsOf w).op = o.byte ∧ (fieldsOf w).f1 = v1 ∧ (fieldsOf w).f2 = v2 ∧
      (fieldsOf w).f3 = v3 ∧ (fieldsOf w).f4 = v4 ∧ (fieldsOf w).f5 = v5 ∧ (fieldsOf w).z = 0 := by
  have ho := o.byte_lt
  have hw := w.isLt
  simp only [packR, fieldsOf, BitVec.toNat_eq, BitVec.toNat_ofNat]
  omega

theorem packI_eq_iff {o : Opcode} {v1 v2 imm : Nat} {w : Word} (h1 : v1 < 16) (h2 : v2 < 16) (h3 : imm < 256) :
    packI o v1 v2 imm = w ↔ (fieldsOf w).op = o.byte ∧ (fieldsOf w).f1 = v1 ∧ (fieldsOf w).f2 = v2 ∧
      (fieldsOf w).f3 = 0 ∧ (fieldsOf w).f4 = 0 ∧ (fieldsOf w).imm8 = imm := by
  have ho := o.byte_lt
  have hw := w.isLt
  simp only [packI, fieldsOf, BitVec.toNat_eq, BitVec.toNat_ofNat]
  omega

theorem fieldsOf_and (v w : Word) :
    fieldsOf (v &&& w) =
      { op := (fieldsOf v).op &&& (fieldsOf w).op
        f1 := (fieldsOf v).f1 &&& (fieldsOf w).f1
        f2 := (fieldsOf v).f2 &&& (fieldsOf w).f2
        f3 := (fieldsOf v).f3 &&& (fieldsOf w).f3
        f4 := (fieldsOf v).f4 &&& (fieldsOf w).f4
        f5 := (fieldsOf v).f5 &&& (fieldsOf w).f5
        z := (fieldsOf v).z &&& (fieldsOf w).z
        imm8 := (fieldsOf v).imm8 &&& (fieldsOf w).imm8 } := by
  simp only [fieldsOf, BitVec.toNat_and, Nat.and_div_two_pow, Nat.and_mod_two_pow (n := 4), Nat.and_mod_two_pow (n := 8)]

/-! ### When each part of the decoder answers a command (R92, R93) -/

theorem xField_eq_iff {v : Nat} (h : v < 16) {i : XIdx} : xField v = i ↔ v = i.val := by
  rw [Fin.ext_iff]
  exact iff_of_eq (congrArg (· = i.val) (Nat.mod_eq_of_lt h))

theorem imm8_eq_iff {v : Nat} (h : v < 256) {b : BitVec 8} : BitVec.ofNat 8 v = b ↔ v = b.toNat := by
  rw [BitVec.toNat_eq, BitVec.toNat_ofNat, Nat.mod_eq_of_lt h]

theorem pField_eq_ok_iff {v : Nat} {p : PIdx} : pField v = .ok p ↔ v = p.val := by
  unfold pField
  split
  · simp [Fin.ext_iff]
  · simp only [reduceCtorEq, false_iff]
    omega

theorem pField_map_eq_ok_iff {v : Nat} {f : PIdx → Instr} {i : Instr} :
    (pField v).map f = .ok i ↔ ∃ p : PIdx, v = p.val ∧ f p = i := by
  simp only [← pField_eq_ok_iff]
  cases pField v <;> simp [Except.map]

theorem pField_bind_eq_ok_iff {v : Nat} {f : PIdx → Except DecodeError Instr} {i : Instr} :
    (pField v).bind f = .ok i ↔ ∃ p : PIdx, v = p.val ∧ f p = .ok i := by
  simp only [← pField_eq_ok_iff]
  cases pField v <;> simp [Except.bind]

theorem unusedZero_eq_ok_iff {l : List Nat} {r : Except DecodeError Instr} {i : Instr} :
    unusedZero l r = .ok i ↔ (∀ v ∈ l, v = 0) ∧ r = .ok i := by
  have hl : l.all (· == 0) = true ↔ ∀ v ∈ l, v = 0 := by simp
  rw [unusedZero, ← hl]
  split <;> simp [*]

theorem opcode_of_decodeOperands {o : Opcode} {f : Fields} {i : Instr} (h : decodeOperands o f = .ok i) :
    i.opcode = o := by
  revert h
  cases o <;>
    simp only [decodeOperands, unusedZero_eq_ok_iff, pField_map_eq_ok_iff, pField_bind_eq_ok_iff, Except.ok.injEq,
      and_imp, forall_exists_index] <;>
    (intros; subst i; rfl)

theorem decode_eq_ok_iff {w : Word} {i : Instr} :
    decode w = .ok i ↔ (fieldsOf w).op = i.opcode.byte ∧ decodeOperands i.opcode (fieldsOf w) = .ok i := by
  constructor
  · intro h
    unfold decode at h
    split at h
    · next o ho =>
      obtain rfl := opcode_of_decodeOperands h
      exact ⟨Opcode.ofByte_eq_some_iff.mp ho, h⟩
    · cases h
  · rintro ⟨ho, h⟩
    simp only [decode, Opcode.ofByte_eq_some_iff.mpr ho, h]

/-! ### Decoder and encoder (R101) -/

/-- Both sides say, field by field, that `w` holds the operands of `i` and zeros elsewhere: the encoder's side by
`packR_eq_iff` and `packI_eq_iff`, the decoder's by the lemmas about its parts. -/
theorem encode_eq_iff {w : Word} {i : Instr} :
    encode i = w ↔ (fieldsOf w).op = i.opcode.byte ∧ decodeOperands i.opcode (fieldsOf w) = .ok i := by
  obtain ⟨h1, h2, h3, h4, h5, -, himm⟩ := fieldsOf_withinWidths w
  cases i <;>
    simp (disch := omega) [encode, packR_eq_iff, packI_eq_iff, Instr.opcode, decodeOperands, unusedZero_eq_ok_iff,
      pField_map_eq_ok_iff, pField_bind_eq_ok_iff, xField_eq_iff, imm8_eq_iff, and_comm, and_left_comm, and_assoc]

theorem decode_eq_ok_iff_encode_eq {w : Word} {i : Instr} : decode w = .ok i ↔ encode i = w :=
  decode_eq_ok_iff.trans encode_eq_iff.symm

/-- Settles O2: a word decodes to `i` exactly when it is the encoding of `i`. -/
theorem decodeOfEncode : Obligations.DecodeOfEncode := fun _ => decode_eq_ok_iff_encode_eq.mpr rfl

/-- Settles O3: the other direction of the same equivalence. -/
theorem encodeOfDecode : Obligations.EncodeOfDecode := fun _ _ => decode_eq_ok_iff_encode_eq.mp

/-! ### Decoder and table rows (R95, R96) -/

/-- The operand fields of `f` are 0 in the bits of the mask fields `m`, as every "match" of R95 has zeros below `op`. -/
def Fields.ClearUnder (f m : Fields) : Prop :=
  f.f1 &&& m.f1 = 0 ∧ f.f2 &&& m.f2 = 0 ∧ f.f3 &&& m.f3 = 0 ∧ f.f4 &&& m.f4 = 0 ∧ f.f5 &&& m.f5 = 0 ∧ f.z &&& m.z = 0

theorem Opcode.mask_op (o : Opcode) : (fieldsOf o.mask).op = 2 ^ 8 - 1 := by cases o <;> rfl

theorem Opcode.pattern_eq_packR (o : Opcode) : o.pattern = packR o 0 0 0 0 0 := by simp [pattern, packR]

theorem Opcode.accepts_iff {o : Opcode} {w : Word} :
    o.accepts w = true ↔ (fieldsOf w).op = o.byte ∧ (fieldsOf w).ClearUnder (fieldsOf o.mask) := by
  have hop : (fieldsOf w).op &&& (fieldsOf o.mask).op = (fieldsOf w).op := by
    have hw := w.isLt
    rw [o.mask_op]
    exact Nat.and_two_pow_sub_one_of_lt_two_pow (by simp only [fieldsOf]; omega)
  rw [accepts, beq_iff_eq, eq_comm, o.pattern_eq_packR]
  simp [packR_eq_iff, fieldsOf_and, hop, Fields.ClearUnder]

/-- A four-bit field that a command does not use: its mask is 15. -/
theorem and_fifteen_eq_zero_iff {v : Nat} (h : v < 16) : v &&& 15 = 0 ↔ v = 0 := by
  rw [Nat.and_two_pow_sub_one_of_lt_two_pow (n := 4) h]

/-- A four-bit field that names a point register (R93): its mask is 8. -/
theorem exists_pIdx_iff {v : Nat} (h : v < 16) : (∃ p : PIdx, v = p.val) ↔ v &&& 8 = 0 := by
  revert v
  decide

theorem decodeOperands_ok_iff {o : Opcode} {f : Fields} (hf : f.WithinWidths) :
    (∃ i, decodeOperands o f = .ok i) ↔ f.ClearUnder (fieldsOf o.mask) := by
  obtain ⟨h1, h2, h3, h4, h5, hz, -⟩ := hf
  cases o <;>
    simp (disch := omega) [fieldsOf, Opcode.mask, Fields.ClearUnder, decodeOperands, unusedZero_eq_ok_iff,
      pField_map_eq_ok_iff, pField_bind_eq_ok_iff, and_fifteen_eq_zero_iff, ← exists_pIdx_iff, and_comm, and_left_comm,
      and_assoc]

theorem decode_ok_iff_accepts {w : Word} : (∃ i, decode w = .ok i) ↔ ∃ o : Opcode, o.accepts w = true := by
  simp only [Opcode.accepts_iff, ← decodeOperands_ok_iff (fieldsOf_withinWidths w), decode_eq_ok_iff]
  constructor
  · rintro ⟨i, ho, h⟩
    exact ⟨i.opcode, ho, i, h⟩
  · rintro ⟨o, ho, i, h⟩
    obtain rfl := opcode_of_decodeOperands h
    exact ⟨i, ho, h⟩

theorem decode_error_iff {w : Word} : (∃ e, decode w = .error e) ↔ ¬ ∃ i, decode w = .ok i := by
  cases decode w <;> simp

/-- Settles O4: a word decodes exactly when some row accepts it, and the table lists every row. -/
theorem refusedWordsMatchNoRow : Obligations.RefusedWordsMatchNoRow := by
  intro w
  simp [decode_error_iff, decode_ok_iff_accepts, Opcode.mem_all]

/-- Settles O1: each legal word is written out as its command's encoding, each illegal one is decoded. -/
theorem sampleWordsDecode : Obligations.SampleWordsDecode := by
  unfold Obligations.SampleWordsDecode
  simp only [decode_eq_ok_iff_encode_eq]
  decide

end Sys2Proof
end

section
/-! PROOFS. The integer functions of the number-theory commands in closed form: the operands of the greatest common divisor
`2^(W-1)`, the bounds of the Bezout pair, and the two exponentiations with their traces (R121 to R127). -/

namespace Sys2Proof.Machine

/-! ### The greatest common divisor and its pair (R121, R122, R124) -/

/-- A greatest common divisor as large as the bound `M` of its operands leaves each of them no choice but 0 and `-M`. -/
theorem eq_zero_or_eq_neg_of_le_gcd {M a b : Int} (hl : -M ≤ a) (hu : a < M) (hg : M ≤ Int.gcd a b) : a = 0 ∨ a = -M := by
  by_cases h0 : a = 0
  · exact .inl h0
  · have hle : Int.gcd a b ≤ a.natAbs := Nat.le_of_dvd (Int.natAbs_pos.2 h0) (Int.gcd_dvd_natAbs_left a b)
    omega

/-- R121: the greatest common divisor of two operands that fit does not fit in the three cases of the rule only. -/
theorem gcd_not_fits_iff {c : Config} {a b : Int} (ha : fits c a) (hb : fits c b) :
    ¬ fits c (Int.gcd a b) ↔
      (a = -2 ^ (c.width - 1) ∧ (b = 0 ∨ b = -2 ^ (c.width - 1))) ∨ (a = 0 ∧ b = -2 ^ (c.width - 1)) := by
  have hM : (0 : Int) < 2 ^ (c.width - 1) := by positivity
  unfold fits at *
  generalize (2 : Int) ^ (c.width - 1) = M at *
  constructor
  · intro h
    have hg : M ≤ Int.gcd a b := by omega
    have ha' := eq_zero_or_eq_neg_of_le_gcd ha.1 ha.2 hg
    have hb' := eq_zero_or_eq_neg_of_le_gcd hb.1 hb.2 (Int.gcd_comm a b ▸ hg)
    have h0 : ¬ (a = 0 ∧ b = 0) := by
      rintro ⟨rfl, rfl⟩
      exact hM.not_ge (by simpa using hg)
    tauto
  · have hMM : |M| = M := abs_of_pos hM
    rintro (⟨rfl, rfl | rfl⟩ | ⟨rfl, rfl⟩) <;> simp [hMM]

theorem gcd_toNat {a b : Int} (ha : 0 ≤ a) (hb : 0 ≤ b) : Nat.gcd a.toNat b.toNat = Int.gcd a b := by
  lift a to Nat using ha
  lift b to Nat using hb
  rfl

/-- R123: the coefficients of R122 are bounded by the operands. -/
theorem egcd_natAbs_le (a b : Nat) : (egcd a b).2.1.natAbs ≤ max 1 b ∧ (egcd a b).2.2.natAbs ≤ max 1 a := by
  induction a, b using egcd_induction with
  | zero a => simp
  | step a b h ih =>
    obtain ⟨hx, hy⟩ := ih
    rw [egcd_pos a h]
    refine ⟨by omega, ?_⟩
    by_cases hr : a % b = 0
    · simp [hr]
    · have hq : (((a / b : Nat) : Int) * (egcd b (a % b)).2.2).natAbs ≤ a / b * b := by
        rw [Int.natAbs_mul, Int.natAbs_natCast]
        exact Nat.mul_le_mul_left _ (by omega)
      have hd : a / b * b + a % b = a := Nat.div_add_mod' a b
      dsimp only
      omega

/-- R123: the triple of R122 fits where its operands do. -/
theorem egcd_fits {c : Config} (hL : 1 ≤ c.limbs) {a b : Nat} (ha : fits c a) (hb : fits c b) :
    fits c (egcd a b).1 ∧ fits c (egcd a b).2.1 ∧ fits c (egcd a b).2.2 := by
  have one := one_fits hL
  obtain ⟨hx, hy⟩ := egcd_natAbs_le a b
  have hg : (egcd a b).1 ≤ max a b := by
    rw [egcd_fst]
    rcases Nat.eq_zero_or_pos a with rfl | h
    · simp
    · exact (Nat.gcd_le_left b h).trans (le_max_left a b)
  unfold fits at *
  omega

/-- R124: the greatest common divisor is that of the operand before it is reduced. -/
theorem egcd_emod_fst (a : Int) {n : Int} (hn : 0 < n) : (egcd (a % n).toNat n.toNat).1 = Int.gcd a n := by
  rw [egcd_fst, gcd_toNat (Int.emod_nonneg _ hn.ne') hn.le, Int.gcd_emod]

/-- R124: the first coefficient, reduced, is an inverse of the operand when there is one. -/
theorem mul_egcd_emod_modEq_one {a n : Int} (hn : 0 < n) (h : Int.gcd a n = 1) :
    a * ((egcd (a % n).toNat n.toNat).2.1 % n) ≡ 1 [ZMOD n] := by
  have hq : fdiv n 1 a = some ((egcd (a % n).toNat n.toNat).2.1 % n) := by simp [fdiv, egcd_emod_fst a hn, h]
  rw [mul_comm]
  exact (Int.modEq_iff_dvd.2 (fdiv_spec hn hq).2).symm

/-- A residue modulo a number that fits, fits. -/
theorem fits_emod {c : Config} (v : Int) {m : Int} (hm : 0 < m) (h : fits c m) : fits c (v % m) :=
  fits_of_between h (Int.emod_nonneg _ hm.ne') (Int.emod_lt_of_pos _ hm).le

/-! ### The exponentiations (R126, R127) -/

/-- The multiplier adds exponents (R125). -/
theorem mulMod_pow_emod (m b : Int) (i j : Nat) : mulMod m (b ^ i % m) (b ^ j % m) = b ^ (i + j) % m := by
  rw [mulMod, ← Int.mul_emod, ← pow_add]

/-- What one pass of the loop of R126 takes off the exponent is its low bit. -/
theorem two_mul_half_add_testBit (e : Nat) : 2 * (e / 2) + (e.testBit 0).toNat = e :=
  (Nat.bit_val _ _).symm.trans (Nat.bit_testBit_zero_shiftRight_one e)

/-- One pass of the loop of R126, from accumulators that are powers of `b`. -/
theorem powLoop_cons_fst (m b : Int) (bit : Bool) (bits : List Bool) (i j : Nat) :
    (powLoop m (bit :: bits) (b ^ i % m) (b ^ j % m)).1 =
      (powLoop m bits (b ^ (i + j * bit.toNat) % m) (b ^ (j + j) % m)).1 := by
  cases bit <;> simp [powLoop, mulMod_pow_emod]

/-- The loop of R126 adds `e` times the exponent of its second accumulator to that of its first. -/
theorem powLoop_fst (m b : Int) (e i j : Nat) :
    (powLoop m (bitsUp e) (b ^ i % m) (b ^ j % m)).1 = b ^ (i + j * e) % m := by
  induction e using Nat.div2Induction generalizing i j with
  | ind e ih =>
    by_cases h : e = 0
    · subst h; rfl
    · have hexp : i + j * (e.testBit 0).toNat + (j + j) * (e / 2) = i + j * e := by
        linear_combination j * two_mul_half_add_testBit e
      rw [bitsUp_pos h, powLoop_cons_fst, ih (by omega), hexp]

/-- The trace of the loop of R126 on the bits it is given. -/
theorem powLoop_snd (m : Int) (bits : List Bool) (r s : Int) :
    (powLoop m bits r s).2 = bits.flatMap fun bit => if bit then [.mul, .sqr] else [.sqr] := by
  induction bits generalizing r s with
  | nil => rfl
  | cons bit bits ih => cases bit <;> simp [powLoop, ih]

theorem modPow_fst (b : Int) (e : Nat) {m : Int} (hm : 1 ≤ m) : (modPow b e m).1 = b ^ e % m := by
  unfold modPow
  split
  · next h => subst h; simp
  · have h1 : 1 % m = 1 := Int.emod_eq_of_lt (by omega) (by omega)
    split
    · next h => simp [h, h1]
    · simpa [h1] using powLoop_fst m b e 0 1

theorem modPow_snd (b : Int) (e : Nat) (m : Int) :
    (modPow b e m).2 =
      if m = 1 ∨ e = 0 then []
      else (List.range (bitlen e)).flatMap fun i => if e.testBit i then [.mul, .sqr] else [.sqr] := by
  unfold modPow
  by_cases hm : m = 1
  · rw [if_pos hm, if_pos (.inl hm)]
  · by_cases he : e = 0
    · rw [if_neg hm, if_pos he, if_pos (.inr he)]
    · rw [if_neg hm, if_neg he, if_neg (not_or.2 ⟨hm, he⟩), powLoop_snd, bitsUp, List.flatMap_map]

/-- The number whose binary form is that of `v` followed by `bits`, the highest of them first. -/
def appendBits (v : Nat) (bits : List Bool) : Nat := bits.foldl (fun n bit => Nat.bit bit n) v

theorem appendBits_bitsDown (k : Nat) : appendBits 0 (bitsDown k) = k := by
  induction k using Nat.div2Induction with
  | ind k ih =>
    by_cases h : k = 0
    · subst h; rfl
    · rw [bitsDown_pos h]
      calc appendBits 0 (bitsDown (k / 2) ++ [k.testBit 0])
          = Nat.bit (k.testBit 0) (appendBits 0 (bitsDown (k / 2))) := by simp [appendBits]
        _ = k := by rw [ih (by omega), Nat.bit_val, two_mul_half_add_testBit]

/-- One pass of the ladder of R127 keeps its invariant: the accumulators are the powers of `b` for the exponent read so far and
for one more. -/
theorem ladderLoop_cons_fst (m b : Int) (bit : Bool) (bits : List Bool) (v : Nat) :
    (ladderLoop m (bit :: bits) (b ^ v % m) (b ^ (v + 1) % m)).1 =
      (ladderLoop m bits (b ^ Nat.bit bit v % m) (b ^ (Nat.bit bit v + 1) % m)).1 := by
  cases bit <;> simp [ladderLoop, mulMod_pow_emod, two_mul, add_assoc, add_left_comm]

theorem ladderLoop_fst (m b : Int) (bits : List Bool) (v : Nat) :
    (ladderLoop m bits (b ^ v % m) (b ^ (v + 1) % m)).1 = b ^ appendBits v bits % m := by
  induction bits generalizing v with
  | nil => rfl
  | cons bit bits ih => rw [ladderLoop_cons_fst, ih]; rfl

/-- The trace of the ladder is the same whatever the bits. -/
theorem ladderLoop_snd (m : Int) (bits : List Bool) (q0 q1 : Int) :
    (ladderLoop m bits q0 q1).2 = (List.replicate bits.length [Event.mul, Event.sqr]).flatten := by
  induction bits generalizing q0 q1 with
  | nil => rfl
  | cons bit bits ih => cases bit <;> simp [ladderLoop, ih, List.replicate_succ]

theorem modPowCt_fst (b : Int) (e : Nat) (m : Int) : (modPowCt b e m).1 = b ^ e % m := by
  simpa [modPowCt, appendBits_bitsDown] using ladderLoop_fst m b (bitsDown e) 0

theorem modPowCt_snd (b : Int) (e : Nat) (m : Int) :
    (modPowCt b e m).2 = (List.replicate (bitlen e) [Event.mul, Event.sqr]).flatten := by
  rw [modPowCt, ladderLoop_snd, bitsDown_length]

end Sys2Proof.Machine
end

section
/-! PROOFS. The statements about the number-theory commands GCD, XGCD, MODINV, MODPOW, MODPOWCT and TOTIENT
(41_number_theory.md). -/

namespace Sys2Proof.Machine

/-! ### Commands that write integer registers -/

/-- The end of a command whose own run writes the values `l`, all of which fit, to distinct integer registers. -/
theorem exec_writesIntegers {i : Instr} {s : State} {l : List (XIdx × Int)} {tr : List Event} {k : Nat} (h : s.Ready)
    (hb : bodyOf i s = { ending := .complete { x := l }, trace := tr, draws := k })
    (hw : i.wellFormed = true) (hc : needsCurve i = true → s.cv = true)
    (hn : (l.map Prod.fst).Nodup) (hfit : ∀ p ∈ l, fits s.cfg p.2) :
    ∃ t, exec i s = .next t ∧ s.CompletedOk t (l.map Prod.fst) [] k ∧ (∀ p ∈ l, t.xval p.1 = p.2) ∧ t.trace = tr := by
  obtain ⟨hi, hf⟩ := h
  have he : (bodyOf i s).ending = .complete { x := l } := by rw [hb]
  refine ⟨_, exec_completes hf hw hc he hfit, ?_, ?_, ?_⟩
  · simpa [hb] using s.completedOk_commit { x := l } (bodyOf i s) rfl
  · intro p hp
    rw [State.xval_finish]
    exact s.xval_commit { x := l } hi.legal.1 hn hfit hp
  · rw [State.finish_trace, hb]

/-- The end of a command whose own run writes one integer register. -/
theorem exec_writesX {i : Instr} {s : State} {rd : XIdx} {v : Int} {tr : List Event} {k : Nat} (h : s.Ready)
    (hb : bodyOf i s = { ending := .complete { x := [(rd, v)] }, trace := tr, draws := k })
    (hw : i.wellFormed = true) (hc : needsCurve i = true → s.cv = true) (hfit : fits s.cfg v) :
    ∃ t, exec i s = .next t ∧ s.CompletedOk t [rd] [] k ∧ t.xval rd = v ∧ t.trace = tr := by
  obtain ⟨t, ht, hok, hx, htr⟩ := exec_writesIntegers h hb hw hc (by simp) (by simpa using hfit)
  exact ⟨t, ht, hok, hx (rd, v) (by simp), htr⟩

/-- The end of a command whose own run raises a code. -/
theorem exec_raisesCode {i : Instr} {s : State} {c : Code} {tr : List Event} (h : s.Ready)
    (hb : bodyOf i s = { ending := .raise c, trace := tr }) (hw : i.wellFormed = true)
    (hc : needsCurve i = true → s.cv = true) : Raises i s c :=
  exec_raises h.2 hw hc (by rw [hb]) (by rw [hb])

/-! ### GCD and TOTIENT (R121, R129) -/

/-- Settles O21: the operands for which the greatest common divisor does not fit are those of `gcd_not_fits_iff`. -/
theorem gcdResult : Obligations.GcdResult := by
  intro s rd ra rb h low overflows
  have hv : ((gcdValue (s.xval ra).natAbs (s.xval rb).natAbs : Nat) : Int) = Int.gcd (s.xval ra) (s.xval rb) := by
    rw [gcdValue_eq, Int.gcd_def]
  have hb : bodyOf (.gcd rd ra rb) s =
      { ending := .complete { x := [(rd, Int.gcd (s.xval ra) (s.xval rb))] }, trace := s.freeTrace (.gcd rd ra rb) } := by
    rw [← hv]; rfl
  have hiff : ¬ fits s.cfg (Int.gcd (s.xval ra) (s.xval rb)) ↔ overflows :=
    gcd_not_fits_iff (h.1.xval_fits ra) (h.1.xval_fits rb)
  constructor
  · intro ho
    obtain ⟨t, ht, hok, hx, -⟩ := exec_writesX h hb rfl nofun (not_not.1 (mt hiff.1 ho))
    exact ⟨t, ht, hok, hx⟩
  · intro ho
    exact exec_overflows h.2 rfl nofun (by rw [hb]) (by simpa using hiff.2 ho) rfl

/-- Settles O27. -/
theorem totientResult : Obligations.TotientResult := by
  intro s rd rp rq h v
  constructor
  · intro hfit
    obtain ⟨t, ht, hok, hx, -⟩ := exec_writesX (i := .totient rd rp rq) h rfl rfl nofun hfit
    exact ⟨t, ht, hok, hx⟩
  · intro hfit
    exact exec_overflows h.2 rfl nofun rfl (by simpa using hfit) rfl

/-! ### XGCD and MODINV (R123, R124) -/

theorem xgcdRun_negative (rg rx ry : XIdx) {a b : Int} (h : a < 0 ∨ b < 0) (free : List Event) :
    xgcdRun rg rx ry a b free = { ending := .raise .eRange, trace := free } := if_pos h

theorem xgcdRun_nonneg (rg rx ry : XIdx) {a b : Int} (ha : 0 ≤ a) (hb : 0 ≤ b) (free : List Event) :
    xgcdRun rg rx ry a b free =
      { ending := .complete { x := [(rg, ((egcd a.toNat b.toNat).1 : Int)), (rx, (egcd a.toNat b.toNat).2.1),
          (ry, (egcd a.toNat b.toNat).2.2)] }
        trace := free } := if_neg (by omega)

/-- Settles O22, by the bounds and the contract of the recursion of R122. -/
theorem xgcdResult : Obligations.XgcdResult := by
  intro s rg rx ry ra rb h
  constructor
  · intro hw
    exact exec_refused (by rw [hw, State.checked_illegal h.2])
  · intro hw
    constructor
    · intro hneg
      exact exec_raisesCode h (xgcdRun_negative rg rx ry hneg _) hw nofun
    · intro ha hb
      have hn : [rg, rx, ry].Nodup := by simpa [Instr.wellFormed, and_assoc] using hw
      have hfit := egcd_fits (c := s.cfg) (a := (s.xval ra).toNat) (b := (s.xval rb).toNat) h.1.legal.1
        (by rw [Int.toNat_of_nonneg ha]; exact h.1.xval_fits ra)
        (by rw [Int.toNat_of_nonneg hb]; exact h.1.xval_fits rb)
      obtain ⟨t, ht, hok, hx, -⟩ :=
        exec_writesIntegers (i := .xgcd rg rx ry ra rb) h (xgcdRun_nonneg rg rx ry ha hb _) hw nofun hn
          (by simpa using hfit)
      have bez := egcd_bezout (s.xval ra).toNat (s.xval rb).toNat
      rw [Int.toNat_of_nonneg ha, Int.toNat_of_nonneg hb] at bez
      simp only [List.forall_mem_cons] at hx
      obtain ⟨hg, hx, hy, -⟩ := hx
      refine ⟨t, ht, hok, by rw [hg, hx, hy], ?_, by rw [hg, hx, hy, bez]⟩
      rw [hg, egcd_fst, gcd_toNat ha hb]

theorem modinvRun_range (rd : XIdx) (a : Int) {n : Int} (h : n < 1) (free : List Event) :
    modinvRun rd a n free = { ending := .raise .eRange, trace := free } := if_pos h

theorem modinvRun_none (rd : XIdx) {a n : Int} (hn : 1 ≤ n) (h : Int.gcd a n ≠ 1) (free : List Event) :
    modinvRun rd a n free = { ending := .raise .noModularInverse, trace := free } := by
  rw [modinvRun, if_neg (by omega)]
  exact if_pos (by rwa [egcd_emod_fst a hn])

theorem modinvRun_some (rd : XIdx) {a n : Int} (hn : 1 ≤ n) (h : Int.gcd a n = 1) (free : List Event) :
    modinvRun rd a n free =
      { ending := .complete { x := [(rd, (egcd (a % n).toNat n.toNat).2.1 % n)] }, trace := free } := by
  rw [modinvRun, if_neg (by omega)]
  exact if_neg (by rw [egcd_emod_fst a hn]; exact not_not.2 h)

/-- Settles O23, by the contract of R122 on the reduced operand. -/
theorem modinvResult : Obligations.ModinvResult := by
  intro s rd ra rn h
  refine ⟨fun hn => ?_, fun hn hg => ?_, fun hn hg => ?_⟩
  · exact exec_raisesCode h (modinvRun_range rd _ hn _) rfl nofun
  · exact exec_raisesCode h (modinvRun_none rd hn hg _) rfl nofun
  · obtain ⟨t, ht, hok, hx, -⟩ :=
      exec_writesX (i := .modinv rd ra rn) h (modinvRun_some rd hn hg _) rfl nofun (fits_emod _ hn (h.1.xval_fits rn))
    refine ⟨t, ht, hok, ?_⟩
    rw [hx]
    exact ⟨Int.emod_nonneg _ (by omega), Int.emod_lt_of_pos _ hn, mul_egcd_emod_modEq_one hn hg⟩

/-! ### MODPOW and MODPOWCT (R126 to R128) -/

theorem powRun_range (rd : XIdx) (f : Int → Nat → Int → Int × List Event) (b : Int) {e m : Int} (h : m < 1 ∨ e < 0) :
    powRun rd f b e m = Run.raised .eRange := by
  unfold powRun
  split
  · rfl
  · exact if_pos (by omega)

theorem powRun_inRange (rd : XIdx) (f : Int → Nat → Int → Int × List Event) (b : Int) {e m : Int} (hm : 1 ≤ m)
    (he : 0 ≤ e) :
    powRun rd f b e m =
      { ending := .complete { x := [(rd, (f b e.toNat m).1)] }, trace := (f b e.toNat m).2 } := by
  rw [powRun, if_neg (by omega), if_neg (by omega)]

/-- What MODPOW and MODPOWCT have in common: the checks, and the power where both pass. -/
theorem exec_powRun {i : Instr} {s : State} {rd rb re rm : XIdx} {f : Int → Nat → Int → Int × List Event} (h : s.Ready)
    (hw : i.wellFormed = true) (hc : needsCurve i = false)
    (hb : bodyOf i s = powRun rd f (s.xval rb) (s.xval re) (s.xval rm))
    (hf : ∀ b e m, 1 ≤ m → (f b e m).1 = b ^ e % m) :
    (s.xval rm < 1 ∨ s.xval re < 0 → Raises i s .eRange) ∧
    (1 ≤ s.xval rm → 0 ≤ s.xval re →
      ∃ t, exec i s = .next t ∧ s.CompletedOk t [rd] [] 0 ∧
        t.xval rd = s.xval rb ^ (s.xval re).toNat % s.xval rm ∧
        t.trace = (f (s.xval rb) (s.xval re).toNat (s.xval rm)).2) := by
  have hc : needsCurve i = true → s.cv = true := by simp [hc]
  constructor
  · intro hr
    rw [powRun_range rd f _ hr] at hb
    exact exec_raisesCode h hb hw hc
  · intro hm he
    rw [powRun_inRange rd f _ hm he, hf _ _ _ hm] at hb
    exact exec_writesX h hb hw hc (fits_emod _ hm (h.1.xval_fits rm))

/-- Settles O24. -/
theorem modpowResult : Obligations.ModpowResult := by
  intro s rd rb re rm h
  obtain ⟨hr, hok⟩ := exec_powRun (i := .modpow rd rb re rm) h rfl rfl rfl fun b e m => modPow_fst b e
  refine ⟨hr, fun hm he => ?_⟩
  obtain ⟨t, ht, hc, hx, htr⟩ := hok hm he
  refine ⟨t, ht, hc, hx, ?_⟩
  have h0 : (s.xval re).toNat = 0 ↔ s.xval re = 0 := by omega
  simp only [htr, modPow_snd, h0]

/-- Settles O25. -/
theorem modpowctResult : Obligations.ModpowctResult := by
  intro s rd rb re rm h
  obtain ⟨hr, hok⟩ := exec_powRun (i := .modpowct rd rb re rm) h rfl rfl rfl fun b e m _ => modPowCt_fst b e m
  refine ⟨hr, fun hm he => ?_⟩
  obtain ⟨t, ht, hc, hx, htr⟩ := hok hm he
  exact ⟨t, ht, hc, hx, htr.trans (modPowCt_snd _ _ _)⟩

/-- The code and the registers a run leaves depend on its ending only. -/
theorem State.conclude_congr (s : State) {r r' : Run} (h : r'.ending = r.ending) :
    (s.conclude r').code = (s.conclude r).code ∧ (s.conclude r').x = (s.conclude r).x := by
  unfold State.conclude
  rw [h]
  cases r.ending with
  | complete w =>
    dsimp only
    split <;> exact ⟨rfl, rfl⟩
  | raise c => exact ⟨rfl, rfl⟩
  | fatalDivisionByZero => exact ⟨rfl, rfl⟩

theorem powRun_ending_eq (rd : XIdx) (b e m : Int) :
    (powRun rd modPowCt b e m).ending = (powRun rd modPow b e m).ending := by
  by_cases h : m < 1 ∨ e < 0
  · rw [powRun_range rd _ b h, powRun_range rd _ b h]
  · obtain ⟨hm, he⟩ : 1 ≤ m ∧ 0 ≤ e := by omega
    rw [powRun_inRange rd _ b hm he, powRun_inRange rd _ b hm he, modPow_fst b _ hm, modPowCt_fst]

/-- Settles O26: in the fatal state both are refused, and otherwise their runs have one ending. -/
theorem exponentiationsAgree : Obligations.ExponentiationsAgree := by
  intro s rd rb re rm
  cases hf : s.fatal with
  | true =>
    obtain ⟨t, ht, hn, -⟩ := exec_refused (i := .modpow rd rb re rm) (State.checked_fatal hf _ _ _)
    obtain ⟨t', ht', hn', -⟩ := exec_refused (i := .modpowct rd rb re rm) (State.checked_fatal hf _ _ _)
    exact ⟨t, t', ht, ht', hn'.ended.code.trans hn.ended.code.symm, hn'.xregs.trans hn.xregs.symm⟩
  | false =>
    exact ⟨_, _, exec_reached hf rfl nofun, exec_reached hf rfl nofun, s.conclude_congr (powRun_ending_eq rd _ _ _)⟩

end Sys2Proof.Machine
end

section
/-! PROOFS. The primality command MRTEST (42_primality.md): its round, its two loops and its value in closed form, and
the statements about it (R150 to R154). -/

namespace Sys2Proof.Machine

/-! ### The witnesses (R152) -/

theorem witnessOf_range {n : Int} (hn : 5 ≤ n) (a : Int) : 2 ≤ witnessOf n a ∧ witnessOf n a ≤ n - 2 := by
  have h0 := Int.emod_nonneg (a - 2) (show n - 3 ≠ 0 by omega)
  have h1 := Int.emod_lt_of_pos (a - 2) (show 0 < n - 3 by omega)
  unfold witnessOf
  omega

theorem witnessOf_eq_self {n a : Int} (h2 : 2 ≤ a) (hn : a ≤ n - 2) : witnessOf n a = a := by
  rw [witnessOf, Int.emod_eq_of_lt (by omega) (by omega)]
  omega

/-- Settles O30. -/
theorem witnessRange : Obligations.WitnessRange :=
  fun _ hn _ => ⟨witnessOf_range hn, fun _ => witnessOf_eq_self⟩

/-! ### The round (R150) -/

/-- The inner loop of R150 from a power of `b` looks at the powers whose exponents are that exponent doubled 1 to `k`
times. -/
theorem mrSquares_iff (n b : Int) (k i : Nat) :
    mrSquares n k (b ^ i % n) = true ↔ ∃ j < k, b ^ (2 ^ (j + 1) * i) % n = n - 1 := by
  induction k generalizing i with
  | zero => simp [mrSquares]
  | succ k ih =>
    have hexp : ∀ j, 2 ^ (j + 1) * (i + i) = 2 ^ (j + 1 + 1) * i := fun j => by ring
    have hone : i + i = 2 ^ (0 + 1) * i := by ring
    rw [mrSquares, mulMod_pow_emod, Nat.exists_lt_succ_left, ← hone]
    split
    · next h => exact iff_of_true rfl (.inl h)
    · next h =>
      rw [ih, or_iff_right h]
      simp only [hexp]

/-- The round of R150 answers `pass` exactly when the witness passes. -/
theorem mrRound_iff {n : Int} {r : Nat} (d : Nat) (a : Int) (hn : 1 ≤ n) (hr : 1 ≤ r) :
    mrRound n r d a = true ↔ WitnessPasses n r d a := by
  obtain ⟨r, rfl⟩ := Nat.exists_eq_add_of_le' hr
  rw [WitnessPasses, Nat.exists_lt_succ_left, pow_zero, one_mul, ← mrSquares_iff, mrRound, modPow_fst a d hn,
    Nat.add_sub_cancel, ← or_assoc]
  split
  · next h => exact iff_of_true rfl (.inl h)
  · next h => exact (or_iff_right h).symm

/-! ### The factorisation of `n - 1` (R151) -/

/-- The loop that halves `d` keeps `2^r * d`, and ends with `d` odd. -/
theorem twoFactor_spec {fuel d : Nat} (r : Nat) (h0 : d ≠ 0) (hd : d < 2 ^ fuel) :
    2 ^ (twoFactor fuel d r).1 * (twoFactor fuel d r).2 = 2 ^ r * d ∧ (twoFactor fuel d r).2 % 2 = 1 := by
  induction fuel generalizing d r with
  | zero => omega
  | succ fuel ih =>
    rw [twoFactor]
    split
    · next he =>
      have hexp : 2 ^ (r + 1) * (d / 2) = 2 ^ r * d := by
        rw [pow_succ, mul_assoc, Nat.mul_div_cancel' (Nat.dvd_of_mod_eq_zero he)]
      exact hexp ▸ ih (r + 1) (by omega) (by omega)
    · exact ⟨rfl, by omega⟩

/-- What MRTEST's rounds use of the loop: for odd `n`, `n - 1 = 2^r * d` with `d` odd and `r ≥ 1`. -/
theorem twoFactor_pred {n : Int} (hn : 3 ≤ n) (ho : n % 2 = 1) :
    ∃ r d : Nat, twoFactor (bitlen (n - 1).toNat) (n - 1).toNat 0 = (r, d) ∧ n - 1 = 2 ^ r * (d : Int) ∧
      d % 2 = 1 ∧ 1 ≤ r := by
  obtain ⟨hmul, hodd⟩ := twoFactor_spec 0 (show (n - 1).toNat ≠ 0 by omega) (lt_two_pow_bitlen _)
  rw [pow_zero, one_mul] at hmul
  refine ⟨_, _, rfl, ?_, hodd, Nat.one_le_iff_ne_zero.2 fun h0 => ?_⟩
  · rw [← Int.toNat_of_nonneg (show 0 ≤ n - 1 by omega)]
    exact_mod_cast hmul.symm
  · rw [h0, pow_zero, one_mul] at hmul
    omega

/-! ### The rounds and the value (R151) -/

/-- The rounds loop passes every witness, or stops at the first that does not pass. -/
theorem mrRounds_cases (n : Int) (r d : Nat) (answer : Nat → Int) (rounds k : Nat) :
    (mrRounds n r d answer rounds k = (true, k + rounds) ∧
      ∀ j < rounds, mrRound n r d (witnessOf n (answer (k + j))) = true) ∨
    (∃ m < rounds, mrRounds n r d answer rounds k = (false, k + m + 1) ∧
      (∀ j < m, mrRound n r d (witnessOf n (answer (k + j))) = true) ∧
      ¬ mrRound n r d (witnessOf n (answer (k + m))) = true) := by
  induction rounds generalizing k with
  | zero => exact .inl ⟨rfl, nofun⟩
  | succ rounds ih =>
    have hshift : ∀ j, k + 1 + j = k + (j + 1) := fun j => by omega
    rw [mrRounds]
    split
    · next hk =>
      have ih := ih (k + 1)
      simp only [hshift] at ih
      rcases ih with ⟨he, hp⟩ | ⟨m, hm, he, hp, hf⟩
      · exact .inl ⟨he, Nat.forall_lt_succ_left.2 ⟨hk, hp⟩⟩
      · exact .inr ⟨m + 1, by omega, he, Nat.forall_lt_succ_left.2 ⟨hk, hp⟩, hf⟩
    · next hk => exact .inr ⟨0, by omega, rfl, nofun, hk⟩

theorem mrTest_le_one {n : Int} (h : n ≤ 1) (rounds : Nat) (answer : Nat → Int) : mrTest n rounds answer = (0, 0) :=
  if_pos h

theorem mrTest_two_or_three {n : Int} (h : n = 2 ∨ n = 3) (rounds : Nat) (answer : Nat → Int) :
    mrTest n rounds answer = (1, 0) := by
  rw [mrTest, if_neg (by omega), if_pos h]

theorem mrTest_even {n : Int} (hn : 4 ≤ n) (he : n % 2 = 0) (rounds : Nat) (answer : Nat → Int) :
    mrTest n rounds answer = (0, 0) := by
  rw [mrTest, if_neg (by omega), if_neg (by omega), if_pos he]

/-- MRTEST on odd `n ≥ 5` writes 1 after all its rounds, or 0 at the first witness that does not pass. -/
theorem mrTest_odd {n : Int} (hn : 5 ≤ n) (ho : n % 2 = 1) (rounds : Nat) (answer : Nat → Int) :
    ∃ r d : Nat, n - 1 = 2 ^ r * (d : Int) ∧ d % 2 = 1 ∧ 1 ≤ r ∧
      ((mrTest n rounds answer = (1, rounds) ∧ ∀ j < rounds, WitnessPasses n r d (witnessOf n (answer j))) ∨
        ∃ m < rounds, mrTest n rounds answer = (0, m + 1) ∧
          (∀ j < m, WitnessPasses n r d (witnessOf n (answer j))) ∧
          ¬ WitnessPasses n r d (witnessOf n (answer m))) := by
  obtain ⟨r, d, hf, hmul, hodd, hr⟩ := twoFactor_pred (by omega) ho
  have h := mrRounds_cases n r d answer rounds 0
  simp only [mrRound_iff d _ (show 1 ≤ n by omega) hr, zero_add] at h
  have ht : mrTest n rounds answer =
      (if (mrRounds n r d answer rounds 0).1 then 1 else 0, (mrRounds n r d answer rounds 0).2) := by
    rw [mrTest, if_neg (by omega), if_neg (by omega), if_neg (by omega), hf]
  refine ⟨r, d, hmul, hodd, hr, ?_⟩
  rcases h with ⟨he, hp⟩ | ⟨m, hm, he, hp, hx⟩
  · exact .inl ⟨by rw [ht, he]; rfl, hp⟩
  · exact .inr ⟨m, hm, by rw [ht, he]; rfl, hp, hx⟩

/-- The values of MRTEST. -/
theorem mrTest_fst_cases (n : Int) (rounds : Nat) (answer : Nat → Int) :
    (mrTest n rounds answer).1 = 0 ∨ (mrTest n rounds answer).1 = 1 := by
  unfold mrTest
  dsimp only
  split_ifs <;> simp

/-! ### The command -/

/-- MRTEST completes with the value of its test, and draws a witness per `DRAW` of its trace. -/
theorem exec_mrtest {s : State} (h : s.Ready) (rd : XIdx) {rn : XIdx} {imm8 : BitVec 8} {n : Int} {rounds : Nat}
    (hn : s.xval rn = n) (hr : roundsOf imm8 = rounds) :
    ∃ t, exec (.mrtest rd rn imm8) s = .next t ∧ s.CompletedOk t [rd] [] (mrTest n rounds s.env.answer).2 ∧
      t.xval rd = (mrTest n rounds s.env.answer).1 ∧
      t.trace = List.replicate (mrTest n rounds s.env.answer).2 .draw := by
  subst hn hr
  refine exec_writesX h rfl rfl nofun ?_
  rcases mrTest_fst_cases (s.xval rn) (roundsOf imm8) s.env.answer with e | e <;> rw [e]
  · exact zero_fits _
  · exact one_fits h.1.legal.1

theorem roundsOf_pos (imm8 : BitVec 8) : 1 ≤ roundsOf imm8 := by
  unfold roundsOf
  split
  · decide
  · next h => exact Nat.one_le_iff_ne_zero.2 fun e => h (BitVec.eq_of_toNat_eq e)

/-- Settles O28, by the four cases of `n` in R151. -/
theorem mrtestResult : Obligations.MrtestResult := by
  intro s rd rn imm8 h n rounds
  obtain ⟨t, ht, hok, hx, htr⟩ := exec_mrtest (n := n) (rounds := rounds) h rd rfl rfl
  have hpos : 1 ≤ rounds := roundsOf_pos imm8
  refine ⟨t, _, ht, hok, htr, hx ▸ mrTest_fst_cases _ _ _, ?_, ?_, ?_, ?_⟩
  · intro hn
    simp [hx, mrTest_le_one hn]
  · intro hn
    simp [hx, mrTest_two_or_three hn]
  · intro hn he
    simp [hx, mrTest_even hn he]
  · intro hn ho
    obtain ⟨r, d, hmul, hodd, hr, ⟨e, hp⟩ | ⟨m, hm, e, hp, hf⟩⟩ := mrTest_odd hn ho rounds s.env.answer
    · rw [hx, e]
      exact ⟨r, d, hmul, hodd, hr, hpos, le_rfl, fun j hj => hp j (by omega),
        fun _ => ⟨rfl, hp _ (by omega)⟩, fun h0 => absurd h0 one_ne_zero⟩
    · rw [hx, e]
      exact ⟨r, d, hmul, hodd, hr, by omega, hm, hp, fun h1 => absurd h1 zero_ne_one, fun _ => hf⟩

/-! ### Primes (R154) -/

/-- Modulo a prime, a number with a power `2^r` of 1 is 1, or has a smaller one of `-1`: 1 has no other square roots. -/
theorem dvd_sub_one_or_exists_dvd_add_one {p y : Int} (hp : Prime p) {r : Nat} (h : p ∣ y ^ 2 ^ r - 1) :
    p ∣ y - 1 ∨ ∃ j < r, p ∣ y ^ 2 ^ j + 1 := by
  induction r with
  | zero => exact .inl (by simpa using h)
  | succ r ih =>
    have hsq : y ^ 2 ^ (r + 1) - 1 = (y ^ 2 ^ r - 1) * (y ^ 2 ^ r + 1) := by ring
    rcases hp.dvd_or_dvd (hsq ▸ h) with h1 | h1
    · exact (ih h1).imp_right fun ⟨j, hj, hd⟩ => ⟨j, hj.trans r.lt_succ_self, hd⟩
    · exact .inr ⟨r, r.lt_succ_self, h1⟩

/-- Every witness passes for a prime, by Fermat's little theorem. -/
theorem witnessPasses_of_prime {p r d : Nat} {a : Int} (hp : p.Prime) (hn : (p : Int) - 1 = 2 ^ r * (d : Int))
    (h1 : 1 ≤ a) (h2 : a < p) : WitnessPasses p r d a := by
  have hint : Prime (p : Int) := Nat.prime_iff_prime_int.1 hp
  have hc : IsCoprime a p := (hint.coprime_iff_not_dvd.2 fun hd => h2.not_ge (Int.le_of_dvd (by omega) hd)).symm
  have he : p - 1 = d * 2 ^ r := by
    zify [hp.one_le]
    rw [hn, mul_comm]
  have hfermat : (p : Int) ∣ (a ^ d) ^ 2 ^ r - 1 := by
    rw [← pow_mul, ← he]
    exact (Int.ModEq.pow_card_sub_one_eq_one hp hc).symm.dvd
  have hp1 : (1 : Int) < p := by exact_mod_cast hp.one_lt
  rcases dvd_sub_one_or_exists_dvd_add_one hint hfermat with h | ⟨j, hj, h⟩
  · exact .inl ((Int.modEq_iff_dvd.2 h).symm.eq.trans (Int.emod_eq_of_lt (by omega) hp1))
  · have hd : (p : Int) ∣ a ^ (2 ^ j * d) - (p - 1) := by
      rw [mul_comm, pow_mul, sub_sub_eq_add_sub, dvd_sub_self_right]
      exact h
    exact .inr ⟨j, hj, (Int.modEq_iff_dvd.2 hd).symm.eq.trans (Int.emod_eq_of_lt (by omega) (by omega))⟩

/-- R154: MRTEST writes 1 for a prime, whatever the random source answers. -/
theorem mrTest_prime {p : Nat} (hp : p.Prime) (rounds : Nat) (answer : Nat → Int) :
    (mrTest p rounds answer).1 = 1 := by
  by_cases h3 : p ≤ 3
  · have h2 := hp.two_le
    rw [mrTest_two_or_three (by omega)]
  · have ho : p % 2 = 1 := hp.eq_two_or_odd.resolve_left (by omega)
    have hn : (5 : Int) ≤ p := by omega
    obtain ⟨r, d, hmul, -, -, ⟨e, -⟩ | ⟨m, -, -, -, hf⟩⟩ := mrTest_odd hn (by omega) rounds answer
    · rw [e]
    · obtain ⟨hl, hu⟩ := witnessOf_range hn (answer m)
      exact absurd (witnessPasses_of_prime hp hmul (by omega) (by omega)) hf

/-- Settles O29: a prime is accepted, so a rejected `n ≥ 2` is not prime and has two proper factors. -/
theorem mrtestNeverRejectsPrimes : Obligations.MrtestNeverRejectsPrimes := by
  intro s t rd rn imm8 h ht
  obtain ⟨t', ht', -, hx, -⟩ := exec_mrtest h rd (rn := rn) (imm8 := imm8) rfl rfl
  cases ht.symm.trans ht'
  have hprime (h0 : 0 ≤ s.xval rn) (hp : (s.xval rn).toNat.Prime) : t.xval rd = 1 := by
    rw [hx, ← Int.toNat_of_nonneg h0, mrTest_prime hp]
  refine ⟨hprime, fun hz h2 => ?_⟩
  have hnp : ¬ (s.xval rn).toNat.Prime := fun hp => zero_ne_one (hz.symm.trans (hprime (by omega) hp))
  obtain ⟨a, b, ha, hb, hab⟩ := (Nat.not_prime_iff_exists_mul_eq (by omega)).1 hnp
  have ha1 : 1 < a := lt_of_mul_lt_mul_right (by omega : 1 * b < a * b) b.zero_le
  have hb1 : 1 < b := lt_of_mul_lt_mul_left (by omega : a * 1 < a * b) a.zero_le
  exact ⟨a, b, ha1, hb1, by omega⟩

end Sys2Proof.Machine
end

section
/-! PROOFS. The statements about the prime-field commands MODADD, MODSUB, MODMUL and MODSQRT (43_field.md). -/

namespace Sys2Proof.Machine

/-! ### MODADD, MODSUB and MODMUL (R161 to R163) -/

theorem reduceRun_range (rd : XIdx) (v : Int) {m : Int} (h : m < 1) (free : List Event) :
    reduceRun rd v m free = { ending := .raise .eRange, trace := free } := if_pos h

theorem reduceRun_inRange (rd : XIdx) (v : Int) {m : Int} (h : 1 ≤ m) (free : List Event) :
    reduceRun rd v m free = { ending := .complete { x := [(rd, v % m)] }, trace := free } := if_neg (by omega)

/-- What MODADD, MODSUB and MODMUL have in common: the check of the modulus, and the residue where it passes. -/
theorem exec_reduceRun {i : Instr} {s : State} {rd rm : XIdx} {v : Int} {free : List Event} (h : s.Ready)
    (hb : bodyOf i s = reduceRun rd v (s.xval rm) free) (hw : i.wellFormed = true)
    (hc : needsCurve i = true → s.cv = true) :
    (s.xval rm < 1 → Raises i s .eRange) ∧
    (1 ≤ s.xval rm → ∃ t, exec i s = .next t ∧ s.CompletedOk t [rd] [] 0 ∧ t.xval rd = v % s.xval rm) := by
  constructor
  · intro hm
    exact exec_raisesCode h (hb.trans (reduceRun_range rd v hm free)) hw hc
  · intro hm
    obtain ⟨t, ht, hok, hx, -⟩ :=
      exec_writesX h (hb.trans (reduceRun_inRange rd v hm free)) hw hc (fits_emod v hm (h.1.xval_fits rm))
    exact ⟨t, ht, hok, hx⟩

/-- Settles O31: the three commands differ in the exact value they reduce only. -/
theorem modularArithmeticResult : Obligations.ModularArithmeticResult := by
  intro s rd ra rb rm h
  obtain ⟨addRange, addOk⟩ := exec_reduceRun (i := .modadd rd ra rb rm) h rfl rfl nofun
  obtain ⟨subRange, subOk⟩ := exec_reduceRun (i := .modsub rd ra rb rm) h rfl rfl nofun
  obtain ⟨mulRange, mulOk⟩ := exec_reduceRun (i := .modmul rd ra rb rm) h rfl rfl nofun
  exact ⟨fun hm => ⟨addRange hm, subRange hm, mulRange hm⟩, fun hm => ⟨addOk hm, subOk hm, mulOk hm⟩⟩

/-! ### MODSQRT (R164) -/

theorem modsqrtRun_range (rd : XIdx) (a : Int) {p : Int} (h : p < 1) (free : List Event) :
    modsqrtRun rd a p free = { ending := .raise .eRange, trace := free } := if_pos h

theorem modsqrtRun_unsupported (rd : XIdx) (a : Int) {p : Int} (hp : 1 ≤ p) (h : p % 4 ≠ 3) (free : List Event) :
    modsqrtRun rd a p free = { ending := .raise .eUnsupported, trace := free } := by
  rw [modsqrtRun, if_neg (by omega), if_pos h]

theorem modsqrtRun_noRoot (rd : XIdx) {a p : Int} (hp : 1 ≤ p) (h4 : p % 4 = 3)
    (h : a ^ ((p - 1) / 2).toNat % p ≠ 1) (free : List Event) :
    modsqrtRun rd a p free = { ending := .raise .sNoRoot, trace := free } := by
  rw [modsqrtRun, if_neg (by omega), if_neg (not_not.2 h4), modPow_fst a _ hp, if_pos h]

theorem modsqrtRun_root (rd : XIdx) {a p : Int} (hp : 1 ≤ p) (h4 : p % 4 = 3)
    (h : a ^ ((p - 1) / 2).toNat % p = 1) (free : List Event) :
    modsqrtRun rd a p free =
      { ending := .complete { x := [(rd, a ^ ((p + 1) / 4).toNat % p)] }, trace := free } := by
  rw [modsqrtRun, if_neg (by omega), if_neg (not_not.2 h4), modPow_fst a _ hp, if_neg (not_not.2 h), modPow_fst a _ hp]

/-- Settles O32, check by check in the order of R164. -/
theorem modsqrtResult : Obligations.ModsqrtResult := by
  intro s rd ra rp h a p
  refine ⟨fun hp => ?_, fun hp h4 => ?_, fun hp h4 he => ?_, fun hp h4 he => ?_⟩
  · exact exec_raisesCode h (modsqrtRun_range rd a hp _) rfl nofun
  · exact exec_raisesCode h (modsqrtRun_unsupported rd a hp h4 _) rfl nofun
  · exact exec_raisesCode h (modsqrtRun_noRoot rd hp h4 he _) rfl nofun
  · obtain ⟨t, ht, hok, hx, -⟩ :=
      exec_writesX (i := .modsqrt rd ra rp) h (modsqrtRun_root rd hp h4 he _) rfl nofun
        (fits_emod _ hp (h.1.xval_fits rp))
    exact ⟨t, ht, hok, hx⟩

/-! ### Square roots modulo a prime (R164) -/

/-- Euler's criterion for integers: modulo an odd prime the power MODSQRT checks is 1 for the squares other than 0. -/
theorem pow_half_emod_eq_one_iff {p : Nat} (hp : p.Prime) (h2 : 3 ≤ p) (a : Int) :
    a ^ (p / 2) % p = 1 ↔ a % p ≠ 0 ∧ ∃ r : Int, (r * r - a) % p = 0 := by
  have : Fact p.Prime := ⟨hp⟩
  have hpow : a ^ (p / 2) % p = 1 ↔ (a : ZMod p) ^ (p / 2) = 1 := by
    have h1 : (1 : Int) % p = 1 := Int.emod_eq_of_lt (by omega) (by omega)
    simpa [h1] using (ZMod.intCast_eq_intCast_iff' (a ^ (p / 2)) 1 p).symm
  have hzero : a % p ≠ 0 ↔ (a : ZMod p) ≠ 0 := by
    rw [Ne, ← Int.dvd_iff_emod_eq_zero, ← ZMod.intCast_zmod_eq_zero_iff_dvd]
  have hsquare : (∃ r : Int, (r * r - a) % p = 0) ↔ IsSquare (a : ZMod p) := by
    simp_rw [IsSquare, ZMod.exists, ← Int.dvd_iff_emod_eq_zero, ← ZMod.intCast_eq_intCast_iff_dvd_sub, Int.cast_mul]
  rw [hpow, hzero, hsquare]
  by_cases ha : (a : ZMod p) = 0
  · simp [ha, show p / 2 ≠ 0 by omega]
  · rw [and_iff_right ha, ZMod.euler_criterion p ha]

/-- The closed form of R164 is a square root wherever the check of Euler's power passes, for a prime `p` or not:
its square is `a` times that power. -/
theorem root_mul_self_sub_emod {a p : Int} (hp : 1 ≤ p) (h4 : p % 4 = 3) (h : a ^ ((p - 1) / 2).toNat % p = 1) :
    (a ^ ((p + 1) / 4).toNat % p * (a ^ ((p + 1) / 4).toNat % p) - a) % p = 0 := by
  have hexp : ((p + 1) / 4).toNat + ((p + 1) / 4).toNat = ((p - 1) / 2).toNat + 1 := by omega
  have heuler : a ^ ((p - 1) / 2).toNat ≡ 1 [ZMOD p] := h.trans (Int.emod_eq_of_lt (by omega) (by omega)).symm
  have hroot : a ^ ((p + 1) / 4).toNat % p * (a ^ ((p + 1) / 4).toNat % p) ≡ a [ZMOD p] :=
    calc a ^ ((p + 1) / 4).toNat % p * (a ^ ((p + 1) / 4).toNat % p)
        ≡ a ^ ((p + 1) / 4).toNat * a ^ ((p + 1) / 4).toNat [ZMOD p] := (Int.mod_modEq _ _).mul (Int.mod_modEq _ _)
      _ = a ^ ((p - 1) / 2).toNat * a := by rw [← pow_add, hexp, pow_succ]
      _ ≡ 1 * a [ZMOD p] := heuler.mul_right a
      _ = a := one_mul a
  exact Int.emod_eq_zero_of_dvd hroot.symm.dvd

/-- Settles O33: MODSQRT ends OK exactly when Euler's power is 1, which for a prime `p` is Euler's criterion. -/
theorem modsqrtFindsRoots : Obligations.ModsqrtFindsRoots := by
  intro s t rd ra rp h h0 hprime h4 ht
  obtain ⟨-, -, noRoot, root⟩ := modsqrtResult s rd ra rp h
  have hp : 1 ≤ s.xval rp := by omega
  have euler := pow_half_emod_eq_one_iff hprime (by omega) (s.xval ra)
  rw [Int.toNat_of_nonneg h0, show (s.xval rp).toNat / 2 = ((s.xval rp - 1) / 2).toNat by omega] at euler
  rw [← euler]
  by_cases he : s.xval ra ^ ((s.xval rp - 1) / 2).toNat % s.xval rp = 1
  · obtain ⟨t', ht', hok, hx⟩ := root hp h4 he
    cases ht.symm.trans ht'
    exact ⟨iff_of_true hok.ended.code he, fun _ => hx ▸ root_mul_self_sub_emod hp h4 he⟩
  · obtain ⟨t', ht', hn, -⟩ := noRoot hp h4 he
    cases ht.symm.trans ht'
    have hcode : t.code ≠ .ok := by simp [hn.ended.code]
    exact ⟨iff_of_false hcode he, fun hok => absurd hok hcode⟩

end Sys2Proof.Machine
end

section
/-! PROOFS. The statements about the curve context and the point moves CURVE, ONCURVE, PLOAD, PINF, PSTORE and PMOV
(44_curve_and_point_moves.md). -/

namespace Sys2Proof.Machine

/-! ### Commands that look at the curve first, and commands that write one point register -/

/-- R285: a legal command that looks at the curve, where none is bound. -/
theorem exec_raisesNoCurve {i : Instr} {s : State} (h : s.Ready) (hw : i.wellFormed = true) (hn : needsCurve i = true)
    (hc : s.cv = false) : Raises i s .eNoCurve :=
  exec_refused (by rw [hw, hn, State.checked_noCurve h.2 hc])

/-- The end of a command whose own run writes one point register. -/
theorem exec_writesPoint {i : Instr} {s : State} {pd : PIdx} {P : Point} {tr : List Event} (h : s.Ready)
    (hb : bodyOf i s = { ending := .complete { pt := [(pd, P)] }, trace := tr }) (hw : i.wellFormed = true)
    (hc : needsCurve i = true → s.cv = true) :
    ∃ t, exec i s = .next t ∧ s.CompletedOk t [] [pd] 0 ∧ t.point pd = P ∧ t.trace = tr := by
  have he : (bodyOf i s).ending = .complete { pt := [(pd, P)] } := by rw [hb]
  refine ⟨_, exec_completes h.2 hw hc he (by simp), ?_, ?_, ?_⟩
  · simpa [hb] using s.completedOk_commit { pt := [(pd, P)] } (bodyOf i s) rfl
  · rw [State.point_finish, State.commit_one_point, State.point_setPoint_self]
  · rw [State.finish_trace, hb]

/-! ### CURVE (R181) -/

theorem curveRun_range (a b : Int) {p : Int} (h : p ≤ 3) (free : List Event) :
    curveRun a b p free = { ending := .raise .eRange, trace := free } := if_pos h

theorem curveRun_singular {a b p : Int} (hp : 3 < p) (hd : disc a b p = 0) (free : List Event) :
    curveRun a b p free = { ending := .raise .singularCurve, trace := free } := by
  rw [curveRun, if_neg (by omega), if_pos hd]

theorem curveRun_binds {a b p : Int} (hp : 3 < p) (hd : disc a b p ≠ 0) (free : List Event) :
    curveRun a b p free =
      { ending := .complete { context := some ({ a := a, b := b, p := p }, true) }, trace := free } := by
  rw [curveRun, if_neg (by omega), if_neg hd]

/-- A commit of the curve context alone. -/
@[simp] theorem State.commit_context (s : State) (c : Curve) (valid : Bool) :
    s.commit { context := some (c, valid) } = s.setContext c valid := rfl

/-- Settles O34: CURVE's two checks, and the context it writes together with the cleared point registers. -/
theorem curveResult : Obligations.CurveResult := by
  intro s ra rb rp h a b p
  refine ⟨fun hp => ?_, fun hp hd => ?_, fun hp hd => ?_⟩
  · exact exec_raisesCode h (curveRun_range a b hp _) rfl nofun
  · exact exec_raisesCode h (curveRun_singular hp hd _) rfl nofun
  · have hb : bodyOf (.curve ra rb rp) s = _ := curveRun_binds hp hd _
    have hinf := s.point_setContext { a := a, b := b, p := p } true
    refine ⟨_, exec_completes h.2 rfl nofun (by rw [hb]) (by simp), ?_⟩
    rw [hb, State.commit_context]
    exact ⟨⟨rfl, rfl, rfl⟩, ⟨rfl, rfl, rfl, rfl, rfl, rfl, rfl, rfl, rfl⟩, rfl, rfl, rfl, rfl, hinf,
      ptinfWord_of_inf hinf, rfl⟩

/-! ### ONCURVE and PLOAD (R182, R183) -/

/-- The test of R180 as its four bounds and its congruence. -/
theorem onCurve_iff_bounds {c : Curve} {x y : Int} :
    onCurve c x y = true ↔
      0 ≤ x ∧ x < c.p ∧ 0 ≤ y ∧ y < c.p ∧ (y * y - (x * x * x + c.a * x + c.b)) % c.p = 0 := by
  rw [onCurve_iff, Int.dvd_iff_emod_eq_zero]
  simp only [Point.Reduced, Curve.residue, and_assoc]

/-- Settles O35: the written 1 or 0 fits, and the test that chooses it is `onCurve_iff_bounds`. -/
theorem oncurveResult : Obligations.OncurveResult := by
  intro s rd rx ry h x y
  refine ⟨exec_raisesNoCurve h rfl rfl, fun hc => ?_⟩
  have hfit : fits s.cfg (if onCurve s.crv x y then 1 else 0) := by
    split
    · exact one_fits h.1.legal.1
    · exact zero_fits s.cfg
  obtain ⟨t, ht, hok, hx, -⟩ := exec_writesX (i := .oncurve rd rx ry) h rfl rfl (fun _ => hc) hfit
  exact ⟨t, ht, hok, hx.trans (if_congr onCurve_iff_bounds rfl rfl)⟩

theorem ploadRun_on (pd : PIdx) {c : Curve} {x y : Int} (h : onCurve c x y = true) (free : List Event) :
    ploadRun pd c x y free = { ending := .complete { pt := [(pd, .aff x y)] }, trace := free } := if_pos h

theorem ploadRun_off (pd : PIdx) {c : Curve} {x y : Int} (h : onCurve c x y = false) (free : List Event) :
    ploadRun pd c x y free = { ending := .raise .invalidCurvePoint, trace := free } := if_neg (by simp [h])

/-- Settles O36, by the two cases of the test of R180. -/
theorem ploadResult : Obligations.PloadResult := by
  intro s pd rx ry h
  refine ⟨exec_raisesNoCurve h rfl rfl, fun hc hon => ?_, fun hc hoff => ?_⟩
  · obtain ⟨t, ht, hok, hpt, -⟩ :=
      exec_writesPoint (i := .pload pd rx ry) h (ploadRun_on pd hon _) rfl fun _ => hc
    exact ⟨t, ht, hok, hpt, by rw [getLsbD_ptinfWord, hpt]; rfl⟩
  · exact exec_raisesCode h (ploadRun_off pd hoff _) rfl fun _ => hc

/-! ### PINF and PMOV (R184, R186) -/

/-- Settles O37: both commands write one point register, and without a curve the invariant has every point `Inf`. -/
theorem pointMoveResult : Obligations.PointMoveResult := by
  intro s pd ps h
  constructor
  · intro hc
    obtain ⟨-, hinf⟩ := h.1.unbound hc
    exact ⟨exec_raisesNoCurve h rfl rfl hc, exec_raisesNoCurve h rfl rfl hc, hinf⟩
  · intro hc
    obtain ⟨t, ht, hok, hpt, -⟩ := exec_writesPoint (i := .pinf pd) h rfl rfl fun _ => hc
    obtain ⟨u, hu, hok', hpt', -⟩ := exec_writesPoint (i := .pmov pd ps) h rfl rfl fun _ => hc
    exact ⟨⟨t, ht, hok, hpt⟩, ⟨u, hu, hok', hpt'⟩⟩

/-! ### PSTORE (R185) -/

/-- Under the invariant the stored coordinates of a point register fit an integer register: they are below `crv.p`. -/
theorem State.Inv.stored_fits {s : State} (h : s.Inv) (i : PIdx) :
    fits s.cfg (s.point i).stored.2.1 ∧ fits s.cfg (s.point i).stored.2.2 := by
  obtain ⟨-, -, hp⟩ := h.contextFits
  have hr := h.reduced i
  cases hP : s.point i with
  | inf => exact ⟨zero_fits _, zero_fits _⟩
  | aff x y =>
    rw [hP] at hr
    obtain ⟨hx0, hx, hy0, hy⟩ := hr
    exact ⟨fits_of_between hp hx0 hx.le, fits_of_between hp hy0 hy.le⟩

/-- Settles O38: the checks of R283 in their order, then the stored fields of the point, which fit. -/
theorem pstoreResult : Obligations.PstoreResult := by
  intro s rdx rdy ps h
  have wf (hne : rdx ≠ rdy) : (Instr.pstore rdx rdy ps).wellFormed = true := bne_iff_ne.2 hne
  refine ⟨fun heq => ?_, fun hne => exec_raisesNoCurve h (wf hne) rfl, fun hne hc => ?_⟩
  · have hw : (Instr.pstore rdx rdy ps).wellFormed = false := by simp [Instr.wellFormed, heq]
    exact exec_refused (by rw [hw, State.checked_illegal h.2])
  · obtain ⟨hfx, hfy⟩ := h.1.stored_fits ps
    obtain ⟨t, ht, hok, hv, -⟩ :=
      exec_writesIntegers (i := .pstore rdx rdy ps) h rfl (wf hne) (fun _ => hc) (by simpa using hne)
        (by simpa using ⟨hfx, hfy⟩)
    have hx : t.xval rdx = (s.point ps).stored.2.1 := hv (rdx, _) (by simp)
    have hy : t.xval rdy = (s.point ps).stored.2.2 := hv (rdy, _) (by simp)
    refine ⟨t, ht, hok, fun hP => ?_, fun x y hP => ?_⟩
    · rw [hx, hy, hP]; exact ⟨rfl, rfl⟩
    · rw [hx, hy, hP]; exact ⟨rfl, rfl⟩

end Sys2Proof.Machine
end

section
/-! PROOFS. The statements about point arithmetic: the negation and the two sums, PNEG, PADD and PDBL
(45_point_arithmetic.md). -/

namespace Sys2Proof.Machine

/-! ### Field division (R200) -/

theorem eq_of_modEq_of_range {p u v : Int} (h : u ≡ v [ZMOD p]) (hu : 0 ≤ u ∧ u < p) (hv : 0 ≤ v ∧ v < p) : u = v := by
  rwa [Int.ModEq, Int.emod_eq_of_lt hu.1 hu.2, Int.emod_eq_of_lt hv.1 hv.2] at h

/-- R200: a quotient is missing exactly where its divisor has no inverse mod `p`. -/
theorem fdiv_eq_none_iff {p : Int} (hp : 0 < p) (u v : Int) : fdiv p u v = none ↔ Int.gcd v p ≠ 1 := by
  simp [fdiv, egcd_emod_fst v hp]

theorem fdiv_range {p u v q : Int} (hp : 0 < p) (h : fdiv p u v = some q) : 0 ≤ q ∧ q < p := by
  simp only [fdiv] at h
  split at h
  · cases h
  · cases h
    exact ⟨Int.emod_nonneg _ hp.ne', Int.emod_lt_of_pos _ hp⟩

/-- There is one quotient in `[0, p)`, so the signs of dividend and divisor may be changed together. -/
theorem fdiv_neg_neg {p : Int} (hp : 0 < p) (u v : Int) : fdiv p (-u) (-v) = fdiv p u v := by
  cases h : fdiv p u v with
  | none =>
    rw [fdiv_eq_none_iff hp] at h ⊢
    rwa [Int.neg_gcd]
  | some q =>
    cases h' : fdiv p (-u) (-v) with
    | none =>
      rw [fdiv_eq_none_iff hp, Int.neg_gcd, ← fdiv_eq_none_iff hp u, h] at h'
      cases h'
    | some q' =>
      obtain ⟨hco, hq⟩ := fdiv_spec hp h
      obtain ⟨-, hq'⟩ := fdiv_spec hp h'
      have hdvd : p ∣ v * (q' - q) := by
        have e : v * (q' - q) = -(q' * -v - -u) - (q * v - u) := by ring
        rw [e]
        exact hq'.neg_right.sub hq
      have hmod : q ≡ q' [ZMOD p] := Int.modEq_iff_dvd.2 (hco.symm.dvd_of_dvd_mul_left hdvd)
      rw [eq_of_modEq_of_range hmod (fdiv_range hp h) (fdiv_range hp h')]

/-! ### The double and the sum (R202, R203) -/

/-- R203: a point is added to itself by doubling it. -/
@[simp] theorem padd_self (c : Curve) (P : Point) : padd c P P = pdbl c P := by
  cases P with
  | inf => rfl
  | aff x y => simp [padd]

/-- R202: a vertical tangent. -/
theorem pdbl_vertical (c : Curve) (x : Int) : pdbl c (.aff x 0) = some .inf := by simp [pdbl]

/-- R202: every other tangent. -/
theorem pdbl_tangent (c : Curve) (x : Int) {y : Int} (h : y ≠ 0) :
    pdbl c (.aff x y) = (fdiv c.p (3 * x * x + c.a) (2 * y)).map fun lam => chordPoint c.p lam x y x := by
  simp [pdbl, h]

/-- R203: a vertical chord. -/
theorem padd_vertical (c : Curve) (x : Int) {y1 y2 : Int} (h : y1 ≠ y2) : padd c (.aff x y1) (.aff x y2) = some .inf := by
  simp [padd, h]

/-- R203: every other chord. -/
theorem padd_chord (c : Curve) {x1 x2 : Int} (y1 y2 : Int) (h : x1 ≠ x2) :
    padd c (.aff x1 y1) (.aff x2 y2) =
      (fdiv c.p (y2 - y1) (x2 - x1)).map fun lam => chordPoint c.p lam x1 y1 x2 := by
  simp [padd, h]

/-- R200, R203: a sum is missing exactly where its slope is undefined. -/
theorem padd_eq_none_iff {c : Curve} (hp : 0 < c.p) (P Q : Point) : padd c P Q = none ↔ SlopeUndefined c P Q := by
  rcases P with _ | ⟨x1, y1⟩ <;> rcases Q with _ | ⟨x2, y2⟩
  · simp [padd, SlopeUndefined]
  · simp [padd, SlopeUndefined]
  · simp [padd, SlopeUndefined]
  · by_cases hx : x1 = x2
    · subst hx
      by_cases hy : y1 = y2
      · subst hy
        by_cases h0 : y1 = 0
        · subst h0; simp [pdbl_vertical, SlopeUndefined]
        · simp [pdbl_tangent c x1 h0, fdiv_eq_none_iff hp, SlopeUndefined, h0]
      · simp [padd_vertical c x1 hy, SlopeUndefined, hy]
    · simp [padd_chord c y1 y2 hx, fdiv_eq_none_iff hp, SlopeUndefined, hx]

theorem exists_padd_of_slope {c : Curve} (hp : 0 < c.p) {P Q : Point} (h : ¬ SlopeUndefined c P Q) :
    ∃ R, padd c P Q = some R :=
  Option.ne_none_iff_exists'.1 (mt (padd_eq_none_iff hp P Q).1 h)

/-- R202, R203: what `padd` answers is the sum by the chord and tangent rule. -/
theorem pointSum_of_padd {c : Curve} (hp : 0 < c.p) {P Q R : Point} (h : padd c P Q = some R) : PointSum c P Q R := by
  rcases P with _ | ⟨x1, y1⟩ <;> rcases Q with _ | ⟨x2, y2⟩
  · exact (Option.some.inj h).symm
  · exact (Option.some.inj h).symm
  · exact (Option.some.inj h).symm
  · by_cases hx : x1 = x2
    · subst hx
      by_cases hy : y1 = y2
      · subst hy
        rw [padd_self] at h
        by_cases h0 : y1 = 0
        · subst h0
          rw [pdbl_vertical] at h
          simpa [PointSum] using h.symm
        · rw [pdbl_tangent c x1 h0] at h
          obtain ⟨lam, hl, rfl⟩ := Option.map_eq_some_iff.1 h
          simpa [PointSum, h0] using ⟨lam, (fdiv_spec hp hl).2, rfl⟩
      · rw [padd_vertical c x1 hy] at h
        simpa [PointSum, hy] using h.symm
    · rw [padd_chord c y1 y2 hx] at h
      obtain ⟨lam, hl, rfl⟩ := Option.map_eq_some_iff.1 h
      simpa [PointSum, hx] using ⟨lam, (fdiv_spec hp hl).2, rfl⟩

/-- The third point of a line is the same from either of the two points it goes through. -/
theorem chordPoint_comm {p lam x1 y1 x2 y2 : Int} (h : p ∣ lam * (x2 - x1) - (y2 - y1)) :
    chordPoint p lam x2 y2 x1 = chordPoint p lam x1 y1 x2 := by
  simp only [chordPoint, sub_right_comm (lam * lam) x2 x1]
  generalize (lam * lam - x1 - x2) % p = x3
  have e : lam * (x2 - x3) - y2 - (lam * (x1 - x3) - y1) = lam * (x2 - x1) - (y2 - y1) := by ring
  rw [(Int.modEq_iff_dvd.2 (e ▸ h) : lam * (x1 - x3) - y1 ≡ lam * (x2 - x3) - y2 [ZMOD p])]

/-- R205: the order of the operands does not matter, for any modulus: where one order has a slope, the other has the same. -/
theorem padd_comm {c : Curve} (hp : 0 < c.p) (P Q : Point) : padd c P Q = padd c Q P := by
  rcases P with _ | ⟨x1, y1⟩ <;> rcases Q with _ | ⟨x2, y2⟩
  · rfl
  · rfl
  · rfl
  · by_cases hx : x1 = x2
    · subst hx
      by_cases hy : y1 = y2
      · rw [hy]
      · rw [padd_vertical c x1 hy, padd_vertical c x1 (Ne.symm hy)]
    · have hq := fdiv_neg_neg hp (y2 - y1) (x2 - x1)
      rw [neg_sub, neg_sub] at hq
      rw [padd_chord c y1 y2 hx, padd_chord c y2 y1 (Ne.symm hx), hq]
      exact Option.map_congr fun lam hl => (chordPoint_comm (fdiv_spec hp hl).2).symm

/-- R205: a reduced point plus its negative is `Inf` for an odd modulus, under which no `y` but 0 is its own negative. -/
theorem padd_pneg {c : Curve} (ho : c.p % 2 = 1) {P : Point} (h : P.Reduced c) : padd c P (pneg c P) = some .inf := by
  cases P with
  | inf => rfl
  | aff x y =>
    obtain ⟨-, -, hy0, hy⟩ := h
    by_cases h0 : y = 0
    · subst h0
      simp [pneg, pdbl_vertical]
    · have e : (c.p - y) % c.p = c.p - y := Int.emod_eq_of_lt (by omega) (by omega)
      rw [pneg, e]
      exact padd_vertical c x (by omega)

/-! ### Prime fields (R207) -/

theorem State.PrimeField.prime {s : State} (h : s.PrimeField) : Prime s.crv.p := by
  rw [← Int.toNat_of_nonneg h.1]
  exact Nat.prime_iff_prime_int.1 h.2

theorem State.PrimeField.odd {s : State} (h : s.PrimeField) (h3 : 3 < s.crv.p) : s.crv.p % 2 = 1 := by
  rcases h.2.eq_two_or_odd with h2 | h1 <;> omega

theorem gcd_eq_one_of_not_dvd {p v : Int} (hp : Prime p) (h : ¬ p ∣ v) : Int.gcd v p = 1 :=
  Int.isCoprime_iff_gcd_eq_one.1 (hp.irreducible.coprime_iff_not_dvd.2 h).symm

/-- R207: on a prime field every two reduced points have a slope: `x2 - x1` and `2*y` are no multiples of `p`. -/
theorem Point.Reduced.not_slopeUndefined {c : Curve} {P Q : Point} (hP : P.Reduced c) (hQ : Q.Reduced c) (hp : Prime c.p)
    (h3 : 3 < c.p) : ¬ SlopeUndefined c P Q := by
  rcases P with _ | ⟨x1, y1⟩ <;> rcases Q with _ | ⟨x2, y2⟩
  · exact id
  · exact id
  · exact id
  · obtain ⟨hx1, hx1', hy1, hy1'⟩ := hP
    obtain ⟨hx2, hx2', -, -⟩ := hQ
    rintro (⟨hne, hg⟩ | ⟨-, -, h0, hg⟩)
    · refine hg (gcd_eq_one_of_not_dvd hp fun hd => hne ?_)
      exact eq_of_modEq_of_range (Int.modEq_iff_dvd.2 hd) ⟨hx1, hx1'⟩ ⟨hx2, hx2'⟩
    · refine hg (gcd_eq_one_of_not_dvd hp fun hd => ?_)
      rcases hp.dvd_or_dvd hd with h2 | hy
      · exact absurd (Int.le_of_dvd (by norm_num) h2) (by omega)
      · exact absurd (Int.le_of_dvd (by omega) hy) (by omega)

theorem State.Inv.modulus_pos {s : State} (h : s.Inv) (hc : s.cv = true) : 0 < s.crv.p :=
  lt_trans (by norm_num) (h.bound hc).1

/-- R207 for the points that curve commands form from the registers. -/
theorem State.Forms.not_slopeUndefined {s : State} (h : s.Inv) (hc : s.cv = true) (hp : s.PrimeField) {P Q : Point}
    (hP : s.Forms P) (hQ : s.Forms Q) : ¬ SlopeUndefined s.crv P Q :=
  (hP.reduced h hc).not_slopeUndefined (hQ.reduced h hc) hp.prime (h.bound hc).1

/-! ### PNEG, PADD and PDBL (R204 to R206) -/

/-- Settles O39: the written point is `pneg` of the source, by the source's two forms. -/
theorem pnegResult : Obligations.PnegResult := by
  intro s pd ps h
  refine ⟨exec_raisesNoCurve h rfl rfl, fun hc => ?_⟩
  obtain ⟨t, ht, hok, hpt, -⟩ := exec_writesPoint (i := .pneg pd ps) h rfl rfl fun _ => hc
  exact ⟨t, ht, hok, fun hP => by rw [hpt, hP]; rfl, fun x y hP => by rw [hpt, hP]; rfl⟩

/-- R205, where the sum has a value. -/
theorem exec_padd {s : State} (h : s.CurveReady) (pd : PIdx) {ps1 ps2 : PIdx} {R : Point}
    (hR : padd s.crv (s.point ps1) (s.point ps2) = some R) :
    ∃ t, exec (.padd pd ps1 ps2) s = .next t ∧ s.CompletedOk t [] [pd] 0 ∧ t.point pd = R ∧ t.trace = [.padd] := by
  obtain ⟨hi, hf, hc⟩ := h
  exact exec_writesPoint ⟨hi, hf⟩ (by rw [bodyOf, hR]; rfl) rfl fun _ => hc

/-- R206, where the double has a value. -/
theorem exec_pdbl {s : State} (h : s.CurveReady) (pd : PIdx) {ps : PIdx} {R : Point}
    (hR : pdbl s.crv (s.point ps) = some R) :
    ∃ t, exec (.pdbl pd ps) s = .next t ∧ s.CompletedOk t [] [pd] 0 ∧ t.point pd = R ∧ t.trace = [.pdbl] := by
  obtain ⟨hi, hf, hc⟩ := h
  exact exec_writesPoint ⟨hi, hf⟩ (by rw [bodyOf, hR]; rfl) rfl fun _ => hc

/-- Settles O40: the sum has a value where its slope has one, and it is the chord-and-tangent sum. -/
theorem paddResult : Obligations.PaddResult := by
  intro s pd ps1 ps2 h
  have ⟨hi, _, hc⟩ := h
  refine ⟨fun hp => State.Forms.not_slopeUndefined hi hc hp (.register ps1) (.register ps2), fun hs => ?_⟩
  obtain ⟨R, hR⟩ := exists_padd_of_slope (hi.modulus_pos hc) hs
  obtain ⟨t, ht, hok, hpt, htr⟩ := exec_padd h pd hR
  exact ⟨t, ht, hok, htr, hpt ▸ pointSum_of_padd (hi.modulus_pos hc) hR⟩

/-- Settles O41: the double is the sum of the point with itself. -/
theorem pdblResult : Obligations.PdblResult := by
  intro s pd ps h
  have ⟨hi, _, hc⟩ := h
  refine ⟨fun hp => State.Forms.not_slopeUndefined hi hc hp (.register ps) (.register ps), fun hs => ?_⟩
  obtain ⟨R, hR⟩ := exists_padd_of_slope (hi.modulus_pos hc) hs
  obtain ⟨t, ht, hok, hpt, htr⟩ := exec_pdbl h pd (padd_self .. ▸ hR)
  exact ⟨t, ht, hok, htr, hpt ▸ pointSum_of_padd (hi.modulus_pos hc) hR⟩

/-- Settles O42: the sum has a value on a prime field, and both laws are those of `padd`. -/
theorem paddGroupLaws : Obligations.PaddGroupLaws := by
  intro s pd ps1 ps2 h hp
  have ⟨hi, _, hc⟩ := h
  obtain ⟨R, hR⟩ := exists_padd_of_slope (hi.modulus_pos hc)
    (State.Forms.not_slopeUndefined hi hc hp (.register ps1) (.register ps2))
  obtain ⟨t, ht, -, hpt, -⟩ := exec_padd h pd hR
  obtain ⟨t', ht', -, hpt', -⟩ := exec_padd h pd ((padd_comm (hi.modulus_pos hc) _ _).trans hR)
  refine ⟨t, t', ht, ht', hpt.trans hpt'.symm, fun hneg => ?_⟩
  rw [hneg, padd_pneg (hp.odd (hi.bound hc).1) (hi.reduced ps1)] at hR
  exact hpt.trans (Option.some.inj hR).symm

/-! ### No fatal end on a prime field (R207) -/

/-- The code that a run's ending gives when its results fit (R14). -/
def Ending.code : Ending → Code
  | .complete _ => .ok
  | .raise c => c
  | .fatalDivisionByZero => .divisionByZero

theorem State.code_conclude (s : State) (r : Run) :
    (s.conclude r).code = r.ending.code ∨ (s.conclude r).code = .eOverflow := by
  rcases s.conclude_cases r with ⟨w, hr, -, e⟩ | ⟨w, hr, -, e⟩ | ⟨c, hr, e⟩ | ⟨hr, e⟩
  · exact .inl (by rw [e, hr]; rfl)
  · exact .inr (by rw [e]; rfl)
  · exact .inl (by rw [e, hr]; rfl)
  · exact .inl (by rw [e, hr]; rfl)

/-- Every two points that the curve commands form from the registers of `s` have a sum. -/
def State.SumsDefined (s : State) : Prop := ∀ ⦃P Q : Point⦄, s.Forms P → s.Forms Q → ∃ R, padd s.crv P Q = some R

theorem State.sumsDefined {s : State} (h : s.Inv) (hc : s.cv = true) (hp : s.PrimeField) : s.SumsDefined :=
  fun _ _ hP hQ => exists_padd_of_slope (h.modulus_pos hc) (State.Forms.not_slopeUndefined h hc hp hP hQ)

theorem State.SumsDefined.double {s : State} (hs : s.SumsDefined) {P : Point} (hP : s.Forms P) :
    ∃ R, pdbl s.crv P = some R := by
  rw [← padd_self]
  exact hs hP hP

theorem State.SumsDefined.smulLoop {s : State} (hs : s.SumsDefined) {bits : List Bool} {R A : Point} (hR : s.Forms R)
    (hA : s.Forms A) : ∃ Q, (smulLoop s.crv bits R A).1 = some Q := by
  induction bits generalizing R A with
  | nil => exact ⟨R, rfl⟩
  | cons b bits ih =>
    obtain ⟨A', hD⟩ := hs.double hA
    cases b with
    | false => simpa [Machine.smulLoop, hD, emitBefore] using ih hR (hA.double hD)
    | true =>
      obtain ⟨R', hS⟩ := hs hR hA
      simpa [Machine.smulLoop, hS, hD, emitBefore] using ih (hR.add hA hS) (hA.double hD)

theorem State.SumsDefined.smulctLoop {s : State} (hs : s.SumsDefined) {bits : List Bool} {P0 P1 : Point}
    (h0 : s.Forms P0) (h1 : s.Forms P1) : ∃ Q, (smulctLoop s.crv bits P0 P1).1 = some Q := by
  induction bits generalizing P0 P1 with
  | nil => exact ⟨P0, rfl⟩
  | cons b bits ih =>
    obtain ⟨S, hS⟩ := hs h0 h1
    cases b with
    | false =>
      obtain ⟨D, hD⟩ := hs.double h0
      simpa [Machine.smulctLoop, hS, hD, emitBefore] using ih (h0.double hD) (h0.add h1 hS)
    | true =>
      obtain ⟨D, hD⟩ := hs.double h1
      simpa [Machine.smulctLoop, hS, hD, emitBefore] using ih (h0.add h1 hS) (h1.double hD)

theorem State.SumsDefined.orderLoop {s : State} (hs : s.SumsDefined) {P Q : Point} (hP : s.Forms P) (hQ : s.Forms Q)
    (n k : Nat) : ∃ r, (orderLoop s.crv P n Q k).1 = some r := by
  induction n generalizing Q k with
  | zero => exact ⟨(Q, k), rfl⟩
  | succ n ih =>
    by_cases h : Q = .inf
    · exact ⟨(Q, k), by simp [Machine.orderLoop, h]⟩
    · obtain ⟨Q', hS⟩ := hs hQ hP
      simpa [Machine.orderLoop, h, hS, emitBefore] using ih (hQ.add hP hS) (k + 1)

theorem code_pointRun {pd : PIdx} {ev : Event} {r : Option Point} (h : ∃ Q, r = some Q) :
    (pointRun pd ev r).ending.code = .ok := by
  obtain ⟨Q, rfl⟩ := h
  rfl

theorem code_scalarRun {pd : PIdx} {r : Option Point × List Event} (h : ∃ Q, r.1 = some Q) :
    (scalarRun pd r).ending.code = .ok := by
  obtain ⟨Q, hQ⟩ := h
  rw [scalarRun, hQ]
  rfl

theorem code_orderRun {rd : XIdx} {r : Option (Point × Nat) × List Event} (h : ∃ q, r.1 = some q) :
    (orderRun rd r).ending.code = .ok ∨ (orderRun rd r).ending.code = .sUnknown := by
  obtain ⟨⟨_ | _, k⟩, hq⟩ := h <;> rw [orderRun, hq]
  · exact .inl rfl
  · exact .inr rfl

/-- A command that does not look at the curve cannot end with DivisionByZero (R287). -/
theorem code_bodyOf_ne_divisionByZero {i : Instr} (s : State) (hn : needsCurve i = false) :
    (bodyOf i s).ending.code ≠ .divisionByZero := by
  have hown : .divisionByZero ∉ ownCodes i := by cases i <;> simp [ownCodes, needsCurve] at hn ⊢
  have hr := runEnds_bodyOf i s
  generalize (bodyOf i s).ending = e at hr
  cases hr with
  | raise h => exact fun (he : _ = Code.divisionByZero) => hown (he ▸ h)
  | fatal h | point _ h => exact absurd (hn.symm.trans h) (by simp)
  | integers | bind | clear => exact nofun

/-- A curve command whose sums have values does not end with DivisionByZero. -/
theorem State.SumsDefined.code_bodyOf_ne_divisionByZero {s : State} (hs : s.SumsDefined) {i : Instr}
    (hn : needsCurve i = true) : (bodyOf i s).ending.code ≠ .divisionByZero := by
  cases i with
  | oncurve | pinf | pstore | pmov | pneg => exact nofun
  | pload =>
    simp only [bodyOf, ploadRun]
    split
    · exact nofun
    · exact nofun
  | padd pd ps1 ps2 => rw [bodyOf, code_pointRun (hs (.register ps1) (.register ps2))]; exact nofun
  | pdbl pd ps => rw [bodyOf, code_pointRun (hs.double (.register ps))]; exact nofun
  | smul pd rk ps =>
    simp only [bodyOf, smulRun]
    split
    · exact nofun
    · rw [code_scalarRun (hs.smulLoop .inf (.register ps))]; exact nofun
  | smulct pd rk ps =>
    simp only [bodyOf, smulctRun]
    split
    · exact nofun
    · rw [code_scalarRun (hs.smulctLoop .inf (.register ps))]; exact nofun
  | porder rd ps rmax =>
    simp only [bodyOf, porderRun]
    split
    · exact nofun
    · rcases code_orderRun (rd := rd) (hs.orderLoop (.register ps) (.register ps) _ 1) with h | h <;> rw [h]
      · exact nofun
      · exact nofun
  | _ => cases hn

/-- Settles O16: a command ends with DivisionByZero through a missing sum only, and a prime field has every sum. -/
theorem primeFieldNeverFatal : Obligations.PrimeFieldNeverFatal := by
  refine ⟨fun i s t hi hp ht => ?_, by decide, by decide, by decide, by decide⟩
  rw [exec_next] at ht
  cases ht
  rcases s.checked_cases i.wellFormed (needsCurve i) (bodyOf i s) with
    ⟨-, e⟩ | ⟨-, -, e⟩ | ⟨-, -, -, -, e⟩ | ⟨-, -, hc, e⟩ <;> rw [e]
  · exact nofun
  · exact nofun
  · exact nofun
  · have hne : (bodyOf i s).ending.code ≠ .divisionByZero := by
      cases hn : needsCurve i with
      | false => exact code_bodyOf_ne_divisionByZero s hn
      | true => exact (State.sumsDefined hi (hc hn) hp).code_bodyOf_ne_divisionByZero hn
    rcases s.code_conclude (bodyOf i s) with h | h <;> rw [h]
    · exact hne
    · exact nofun

end Sys2Proof.Machine
end

section
/-! PROOFS. The loops of SMUL and SMULCT as folds of one pass over the scalar's bits, with their traces, and the loop of PORDER
along the multiples of its point; the statements about the trace and the result of each command
(46_scalar_multiplication.md). -/

namespace Sys2Proof.Machine

/-! ### A loop over the scalar's bits (R221, R222) -/

/-- The accumulators of a loop after its first `n` passes, from `acc`: each pass is `step`, on the bit that `bit` gives. -/
def accumulatorsAfter (step : Point × Point → Bool → Option (Point × Point)) (bit : Nat → Bool) (acc : Point × Point)
    (n : Nat) : Option (Point × Point) :=
  ((List.range n).map bit).foldlM step acc

theorem accumulatorsAfter_succ (step : Point × Point → Bool → Option (Point × Point)) (bit : Nat → Bool)
    (acc : Point × Point) (n : Nat) :
    accumulatorsAfter step bit acc (n + 1) = (accumulatorsAfter step bit acc n).bind fun a => step a (bit n) := by
  simp [accumulatorsAfter, List.range_succ, List.foldlM_append]

/-- `loop` repeats `step` on the bits it is given and answers the first accumulator: a pass that has its sums emits the events
`ev` of its bit, and one that has not ends the loop without a value. -/
structure Repeats (step : Point × Point → Bool → Option (Point × Point)) (ev : Bool → List Event)
    (loop : List Bool → Point → Point → Option Point × List Event) : Prop where
  nil (P Q : Point) : loop [] P Q = (some P, [])
  pass {bit : Bool} {P Q P' Q' : Point} (bits : List Bool) :
    step (P, Q) bit = some (P', Q') → loop (bit :: bits) P Q = emitBefore (ev bit) (loop bits P' Q')
  stop {bit : Bool} {P Q : Point} (bits : List Bool) : step (P, Q) bit = none → (loop (bit :: bits) P Q).1 = none

section
variable {step : Point × Point → Bool → Option (Point × Point)} {ev : Bool → List Event}
  {loop : List Bool → Point → Point → Option Point × List Event}

theorem Repeats.fst (h : Repeats step ev loop) (bits : List Bool) (P Q : Point) :
    (loop bits P Q).1 = (bits.foldlM step (P, Q)).map Prod.fst := by
  induction bits generalizing P Q with
  | nil => rw [h.nil]; rfl
  | cons bit bits ih =>
    rw [List.foldlM_cons]
    cases hs : step (P, Q) bit with
    | none => exact h.stop bits hs
    | some acc => rw [h.pass bits hs]; exact ih acc.1 acc.2

/-- A loop that ends with a value has every sum of its first pass. -/
theorem Repeats.cons_some (h : Repeats step ev loop) {bit : Bool} {bits : List Bool} {P Q R : Point}
    (hR : (loop (bit :: bits) P Q).1 = some R) :
    ∃ P' Q', step (P, Q) bit = some (P', Q') ∧ (loop bits P' Q').1 = some R ∧
      loop (bit :: bits) P Q = emitBefore (ev bit) (loop bits P' Q') := by
  cases hs : step (P, Q) bit with
  | none => rw [h.stop bits hs] at hR; cases hR
  | some acc => exact ⟨acc.1, acc.2, rfl, by rwa [h.pass bits hs] at hR, h.pass bits hs⟩

theorem Repeats.snd (h : Repeats step ev loop) {bits : List Bool} {P Q R : Point} (hR : (loop bits P Q).1 = some R) :
    (loop bits P Q).2 = bits.flatMap ev := by
  induction bits generalizing P Q with
  | nil => rw [h.nil]; rfl
  | cons bit bits ih =>
    obtain ⟨P', Q', -, hR', e⟩ := h.cons_some hR
    rw [e, List.flatMap_cons, ← ih hR', emitBefore]

end

/-! ### SMUL's loop (R221) -/

/-- One pass of the loop of R221. -/
def smulStep (c : Curve) (acc : Point × Point) (bit : Bool) : Option (Point × Point) :=
  (if bit then padd c acc.1 acc.2 else some acc.1).bind fun R => (pdbl c acc.2).map fun A => (R, A)

/-- The events of one pass of the loop of R221. -/
def smulEvents (bit : Bool) : List Event := if bit then [.padd, .pdbl] else [.pdbl]

theorem repeats_smulLoop (c : Curve) : Repeats (smulStep c) smulEvents (smulLoop c) where
  nil _ _ := rfl
  pass {bit P Q P' Q'} bits h := by
    simp only [smulStep, Option.bind_eq_some_iff, Option.map_eq_some_iff] at h
    obtain ⟨R, hR, A, hA, e⟩ := h
    cases e
    cases bit with
    | false => cases hR; simp [smulLoop, hA, smulEvents]
    | true => simp only [if_true] at hR; simp [smulLoop, hR, hA, smulEvents]
  stop {bit P Q} bits h := by
    cases bit with
    | false =>
      have hA : pdbl c Q = none := by simpa [smulStep] using h
      simp [smulLoop, hA]
    | true =>
      cases hR : padd c P Q with
      | none => simp [smulLoop, hR]
      | some R =>
        have hA : pdbl c Q = none := by simpa [smulStep, hR] using h
        simp [smulLoop, hR, hA]

theorem smulAccumulators_eq (c : Curve) (P : Point) (k n : Nat) :
    smulAccumulators c P k n = accumulatorsAfter (smulStep c) k.testBit (.inf, P) n := by
  induction n with
  | zero => rfl
  | succ n ih => rw [accumulatorsAfter_succ, ← ih]; rfl

theorem smulLoop_bitsUp_fst (c : Curve) (P : Point) (k : Nat) :
    (smulLoop c (bitsUp k) .inf P).1 = (smulAccumulators c P k (bitlen k)).map Prod.fst := by
  rw [(repeats_smulLoop c).fst, smulAccumulators_eq]
  rfl

/-! ### SMULCT's ladder (R222) -/

/-- One pass of the ladder of R222. -/
def smulctStep (c : Curve) (acc : Point × Point) (bit : Bool) : Option (Point × Point) :=
  (padd c acc.1 acc.2).bind fun S =>
    if bit then (pdbl c acc.2).map fun D => (S, D) else (pdbl c acc.1).map fun D => (D, S)

theorem repeats_smulctLoop (c : Curve) : Repeats (smulctStep c) (fun _ => [.padd, .pdbl]) (smulctLoop c) where
  nil _ _ := rfl
  pass {bit P Q P' Q'} bits h := by
    obtain ⟨S, hS : padd c P Q = some S, h⟩ := Option.bind_eq_some_iff.1 h
    cases bit with
    | false =>
      obtain ⟨D, hD : pdbl c P = some D, e⟩ := Option.map_eq_some_iff.1 h
      cases e
      simp [smulctLoop, hS, hD]
    | true =>
      obtain ⟨D, hD : pdbl c Q = some D, e⟩ := Option.map_eq_some_iff.1 h
      cases e
      simp [smulctLoop, hS, hD]
  stop {bit P Q} bits h := by
    cases hS : padd c P Q with
    | none => simp [smulctLoop, hS]
    | some S =>
      have hD : pdbl c (if bit then Q else P) = none := by cases bit <;> simpa [smulctStep, hS] using h
      simp [smulctLoop, hS, hD]

theorem smulctAccumulators_eq (c : Curve) (P : Point) (k n : Nat) :
    smulctAccumulators c P k n =
      accumulatorsAfter (smulctStep c) (fun i => k.testBit (bitlen k - (i + 1))) (.inf, P) n := by
  induction n with
  | zero => rfl
  | succ n ih => rw [accumulatorsAfter_succ, ← ih]; rfl

theorem bitsDown_eq (k : Nat) : bitsDown k = (List.range (bitlen k)).map fun i => k.testBit (bitlen k - (i + 1)) := by
  rw [bitsDown, bitsUp, ← List.map_reverse, List.range_eq_range', List.reverse_range', List.map_map]
  simp [Function.comp_def, Nat.sub_sub, Nat.add_comm 1, List.range_eq_range']

theorem smulctLoop_bitsDown_fst (c : Curve) (P : Point) (k : Nat) :
    (smulctLoop c (bitsDown k) .inf P).1 = (smulctAccumulators c P k (bitlen k)).map Prod.fst := by
  rw [(repeats_smulctLoop c).fst, smulctAccumulators_eq, bitsDown_eq]
  rfl

/-! ### SMUL and SMULCT (R220 to R222) -/

/-- The end of SMUL or SMULCT where the loop has a value. -/
theorem exec_scalarRun {i : Instr} {s : State} {pd : PIdx} {r : Option Point × List Event} {R : Point} (h : s.CurveReady)
    (hw : i.wellFormed = true) (hb : bodyOf i s = scalarRun pd r) (hR : r.1 = some R) :
    ∃ t, exec i s = .next t ∧ s.CompletedOk t [] [pd] 0 ∧ t.point pd = R ∧ t.trace = r.2 := by
  obtain ⟨hi, hf, hc⟩ := h
  exact exec_writesPoint ⟨hi, hf⟩ (by rw [hb, scalarRun, hR]) hw fun _ => hc

theorem exec_smul {s : State} (h : s.CurveReady) (pd : PIdx) {ps : PIdx} {rk : XIdx} {R : Point} (hk : 0 ≤ s.xval rk)
    (hR : (smulLoop s.crv (bitsUp (s.xval rk).toNat) .inf (s.point ps)).1 = some R) :
    ∃ t, exec (.smul pd rk ps) s = .next t ∧ s.CompletedOk t [] [pd] 0 ∧ t.point pd = R ∧
      t.trace = (bitsUp (s.xval rk).toNat).flatMap smulEvents := by
  rw [← (repeats_smulLoop s.crv).snd hR]
  exact exec_scalarRun h rfl (if_neg hk.not_gt) hR

theorem exec_smulct {s : State} (h : s.CurveReady) (pd : PIdx) {ps : PIdx} {rk : XIdx} {R : Point} (hk : 0 ≤ s.xval rk)
    (hR : (smulctLoop s.crv (bitsDown (s.xval rk).toNat) .inf (s.point ps)).1 = some R) :
    ∃ t, exec (.smulct pd rk ps) s = .next t ∧ s.CompletedOk t [] [pd] 0 ∧ t.point pd = R ∧
      t.trace = (bitsDown (s.xval rk).toNat).flatMap fun _ => [.padd, .pdbl] := by
  rw [← (repeats_smulctLoop s.crv).snd hR]
  exact exec_scalarRun h rfl (if_neg hk.not_gt) hR

/-- Settles O43: the loop's value is that of its last accumulators, and a prime field has every sum. -/
theorem smulTrace : Obligations.SmulTrace := by
  intro s pd ps rk h
  have ⟨hi, hf, hc⟩ := h
  refine ⟨fun hk => exec_raisesCode ⟨hi, hf⟩ (if_pos hk) rfl fun _ => hc, fun hp hn => ?_, fun hk R A hacc => ?_⟩
  · obtain ⟨Q, hQ⟩ := (State.sumsDefined hi hc hp).smulLoop (bits := bitsUp (s.xval rk).toNat) .inf (.register ps)
    rw [smulLoop_bitsUp_fst, hn] at hQ
    cases hQ
  · obtain ⟨t, ht, hok, hpt, htr⟩ := exec_smul h pd hk (by rw [smulLoop_bitsUp_fst, hacc]; rfl)
    exact ⟨t, ht, hok, hpt, by rw [htr, bitsUp, List.flatMap_map]; rfl⟩

/-- Settles O44: the same for the ladder, whose events do not depend on the bits. -/
theorem smulctTrace : Obligations.SmulctTrace := by
  intro s pd ps rk h
  have ⟨hi, hf, hc⟩ := h
  refine ⟨fun hk => exec_raisesCode ⟨hi, hf⟩ (if_pos hk) rfl fun _ => hc, fun hp hn => ?_, fun hk Q0 Q1 hacc => ?_⟩
  · obtain ⟨Q, hQ⟩ := (State.sumsDefined hi hc hp).smulctLoop (bits := bitsDown (s.xval rk).toNat) .inf (.register ps)
    rw [smulctLoop_bitsDown_fst, hn] at hQ
    cases hQ
  · obtain ⟨t, ht, hok, hpt, htr⟩ := exec_smulct h pd hk (by rw [smulctLoop_bitsDown_fst, hacc]; rfl)
    refine ⟨t, ht, hok, hpt, ?_⟩
    rw [htr, List.flatMap_def, List.map_const', bitsDown_length]

/-! ### PORDER (R223) -/

/-- A multiple that has a value comes from the one before it. -/
theorem pointMultiple_succ {c : Curve} {P R : Point} {k : Nat} (hk : 1 ≤ k) (h : pointMultiple c P (k + 1) = some R) :
    ∃ Q, pointMultiple c P k = some Q ∧ padd c Q P = some R := by
  obtain ⟨j, rfl⟩ := Nat.exists_eq_add_of_le' hk
  exact Option.bind_eq_some_iff.1 h

/-- While no multiple is `Inf`, the loop of R223 goes on from each multiple to the next, one addition a pass. -/
theorem orderLoop_advance {c : Curve} {P R : Point} {m : Nat} (n : Nat) (h : pointMultiple c P (m + 1) = some R)
    (hne : ∀ j, 1 ≤ j → j < m + 1 → pointMultiple c P j ≠ some .inf) :
    orderLoop c P (m + n) P 1 = emitBefore (List.replicate m .padd) (orderLoop c P n R (m + 1)) := by
  induction m generalizing n R with
  | zero => cases h; simp [emitBefore]
  | succ m ih =>
    obtain ⟨Q, hQ, hR⟩ := pointMultiple_succ (by omega) h
    have hQi : Q ≠ .inf := fun e => hne (m + 1) (by omega) (by omega) (e ▸ hQ)
    have hs : orderLoop c P (n + 1) Q (m + 1) = emitBefore [.padd] (orderLoop c P n R (m + 1 + 1)) := by
      simp [orderLoop, hQi, hR]
    rw [show m + 1 + n = m + (n + 1) by omega, ih (n + 1) hQ fun j h1 h2 => hne j h1 (by omega), hs,
      List.replicate_succ', emitBefore, emitBefore, emitBefore, List.append_assoc]

/-- The loop of R223 stops at `Inf`. -/
theorem orderLoop_inf (c : Curve) (P : Point) (n k : Nat) : orderLoop c P n .inf k = (some (.inf, k), []) := by
  cases n <;> simp [orderLoop]

/-- R223, where the least multiple that is `Inf` is within the bound. -/
theorem porderRun_found (rd : XIdx) {c : Curve} {P : Point} {M : Int} {k : Nat} (h1 : 1 ≤ k) (hM : k ≤ M)
    (h : pointMultiple c P k = some .inf) (hne : ∀ j, 1 ≤ j → j < k → pointMultiple c P j ≠ some .inf) :
    porderRun rd c P M = { ending := .complete { x := [(rd, (k : Int))] }, trace := List.replicate (k - 1) .padd } := by
  obtain ⟨m, rfl⟩ := Nat.exists_eq_add_of_le' h1
  have hn : (M - 1).toNat = m + ((M - 1).toNat - m) := by omega
  rw [porderRun, if_neg (by omega), hn, orderLoop_advance _ h hne, orderLoop_inf]
  simp [emitBefore, orderRun]

/-- R223, where no multiple up to the bound is `Inf`. -/
theorem porderRun_unknown (rd : XIdx) {c : Curve} {P : Point} {M : Int} (hM : 1 ≤ M)
    (hd : pointMultiple c P M.toNat ≠ none)
    (hne : ∀ k : Nat, 1 ≤ k → (k : Int) ≤ M → pointMultiple c P k ≠ some .inf) :
    ∃ tr, porderRun rd c P M = { ending := .raise .sUnknown, trace := tr } := by
  obtain ⟨m, rfl⟩ : ∃ m : Nat, M = m + 1 := ⟨(M - 1).toNat, by omega⟩
  have hm : ((m : Int) + 1).toNat = m + 1 := by omega
  have hn : ((m : Int) + 1 - 1).toNat = m + 0 := by omega
  rw [hm] at hd
  obtain ⟨R, hR⟩ := Option.ne_none_iff_exists'.1 hd
  have hlast := hne (m + 1) (by omega) (by omega)
  rw [porderRun, if_neg (by omega), hn, orderLoop_advance 0 hR fun j h1 h2 => hne j h1 (by omega)]
  cases R with
  | inf => exact absurd hR hlast
  | aff x y => exact ⟨_, rfl⟩

/-- R207: where the sums of the formed points have values, the multiples of a formed point have values, and are formed. -/
theorem State.SumsDefined.pointMultiple {s : State} (hs : s.SumsDefined) {P : Point} (hP : s.Forms P) (k : Nat) :
    ∃ Q, pointMultiple s.crv P k = some Q ∧ s.Forms Q := by
  match k with
  | 0 => exact ⟨.inf, rfl, .inf⟩
  | 1 => exact ⟨P, rfl, hP⟩
  | k + 2 =>
    obtain ⟨Q, hQ, hF⟩ := hs.pointMultiple hP (k + 1)
    obtain ⟨R, hR⟩ := hs hF hP
    exact ⟨R, by rw [Machine.pointMultiple, hQ]; exact hR, hF.add hP hR⟩

/-- Settles O46: by the loop's way along the multiples of the point, which are all there on a prime field. -/
theorem porderResult : Obligations.PorderResult := by
  intro s rd rmax ps h
  have ⟨hi, hf, hc⟩ := h
  refine ⟨fun hM => ?_, fun hp k => ?_, fun k h1 hM hk hne => ?_, fun hM hd hne => ?_⟩
  · exact exec_raisesCode ⟨hi, hf⟩ (if_pos hM) rfl fun _ => hc
  · obtain ⟨Q, hQ, -⟩ := (State.sumsDefined hi hc hp).pointMultiple (.register ps) k
    simp [hQ]
  · exact exec_writesX ⟨hi, hf⟩ (porderRun_found rd h1 hM hk hne) rfl (fun _ => hc)
      (fits_of_between (hi.xval_fits rmax) (by omega) hM)
  · obtain ⟨tr, hb⟩ := porderRun_unknown rd hM hd hne
    exact exec_raisesCode ⟨hi, hf⟩ hb rfl fun _ => hc

end Sys2Proof.Machine
end

section
/-! PROOFS. The points of the bound curve on a prime field as a group, through Mathlib's Weierstrass curves over `ZMod p`, and
with it the common value of SMUL and SMULCT (R224). -/

namespace Sys2Proof.Machine

/-! ### The bound curve over a prime field -/

/-- The context is one that CURVE has bound (R181), and `p` is its modulus. -/
structure Curve.BoundOver (c : Curve) (p : Nat) : Prop where
  modulus : c.p = p
  large : 3 < c.p
  discriminant : disc c.a c.b c.p ≠ 0

/-- The Weierstrass curve of a context over the integers mod `p`. -/
def Curve.weierstrass (c : Curve) (p : Nat) : WeierstrassCurve.Affine (ZMod p) :=
  { a₁ := 0, a₂ := 0, a₃ := 0, a₄ := c.a, a₆ := c.b }

theorem Curve.equation_iff (c : Curve) (p : Nat) (x y : Int) :
    (c.weierstrass p).Equation x y ↔ (p : Int) ∣ c.residue x y := by
  rw [WeierstrassCurve.Affine.equation_iff', ← ZMod.intCast_zmod_eq_zero_iff_dvd, Curve.residue]
  simp only [Curve.weierstrass]
  push_cast
  ring_nf

/-- The reduced point `P` stands for the group element `g`: both are infinite, or `g` has the residues of the coordinates of
`P`. -/
def Point.StandsFor (c : Curve) (p : Nat) : Point → (c.weierstrass p).Point → Prop
  | .inf, g => g = 0
  | .aff x y, g => (Point.aff x y).Reduced c ∧ ∃ hn : (c.weierstrass p).Nonsingular x y, g = .some _ _ hn

section
variable {c : Curve} {p : Nat} (hb : c.BoundOver p)
include hb

theorem Curve.BoundOver.cast_emod (v : Int) : ((v % c.p : Int) : ZMod p) = v := by rw [hb.modulus, ZMod.intCast_mod]

/-- Integers in `[0, p)` with the same residue are equal. -/
theorem Curve.BoundOver.eq_of_cast_eq {u v : Int} (hu : 0 ≤ u ∧ u < c.p) (hv : 0 ≤ v ∧ v < c.p)
    (h : (u : ZMod p) = v) : u = v :=
  eq_of_modEq_of_range (hb.modulus ▸ (ZMod.intCast_eq_intCast_iff u v p).1 h) hu hv

theorem Curve.BoundOver.two_ne_zero : (2 : ZMod p) ≠ 0 := by
  have hlarge := hb.large
  have h : (2 : Int) ≠ 0 := by norm_num
  simpa using mt (hb.eq_of_cast_eq ⟨by norm_num, by omega⟩ ⟨le_rfl, by omega⟩) h

/-- At most one point stands for a group element. -/
theorem Point.StandsFor.unique {P Q : Point} {g : (c.weierstrass p).Point} (hP : P.StandsFor c p g)
    (hQ : Q.StandsFor c p g) : P = Q := by
  rcases P with _ | ⟨x1, y1⟩ <;> rcases Q with _ | ⟨x2, y2⟩
  · rfl
  · obtain ⟨-, _, hg⟩ := hQ
    exact absurd (hg.symm.trans hP) (WeierstrassCurve.Affine.Point.some_ne_zero _)
  · obtain ⟨-, _, hg⟩ := hP
    exact absurd (hg.symm.trans hQ) (WeierstrassCurve.Affine.Point.some_ne_zero _)
  · obtain ⟨⟨hx1, hx1', hy1, hy1'⟩, _, hg⟩ := hP
    obtain ⟨⟨hx2, hx2', hy2, hy2'⟩, _, hg'⟩ := hQ
    obtain ⟨ex, ey⟩ := WeierstrassCurve.Affine.Point.some.inj (hg.symm.trans hg')
    rw [hb.eq_of_cast_eq ⟨hx1, hx1'⟩ ⟨hx2, hx2'⟩ ex, hb.eq_of_cast_eq ⟨hy1, hy1'⟩ ⟨hy2, hy2'⟩ ey]

variable [Fact p.Prime]

/-- CURVE's check of the discriminant (R181) is that of the Weierstrass curve, but for a power of 2. -/
theorem Curve.BoundOver.discriminant_ne_zero : (c.weierstrass p).Δ ≠ 0 := by
  have hd : ((4 * c.a * c.a * c.a + 27 * c.b * c.b : Int) : ZMod p) ≠ 0 := by
    rw [Ne, ZMod.intCast_zmod_eq_zero_iff_dvd, ← hb.modulus, Int.dvd_iff_emod_eq_zero]
    exact hb.discriminant
  have e : (c.weierstrass p).Δ = -2 ^ 4 * ((4 * c.a * c.a * c.a + 27 * c.b * c.b : Int) : ZMod p) := by
    simp only [WeierstrassCurve.Δ, WeierstrassCurve.b₂, WeierstrassCurve.b₄, WeierstrassCurve.b₆, WeierstrassCurve.b₈,
      Curve.weierstrass]
    push_cast
    ring
  rw [e]
  exact mul_ne_zero (neg_ne_zero.2 (pow_ne_zero 4 hb.two_ne_zero)) hd

/-- Every point of the curve stands for an element of the group. -/
theorem Point.On.exists_standsFor {P : Point} (h : P.On c) : ∃ g, P.StandsFor c p g := by
  cases P with
  | inf => exact ⟨0, rfl⟩
  | aff x y =>
    obtain ⟨hr, hn⟩ := onCurve_iff.1 h
    rw [hb.modulus, ← Curve.equation_iff,
      WeierstrassCurve.Affine.equation_iff_nonsingular_of_Δ_ne_zero hb.discriminant_ne_zero] at hn
    exact ⟨_, hr, hn, rfl⟩

/-! ### The group operation (R200 to R203) -/

/-- R200 in the field: the quotient. -/
theorem Curve.BoundOver.cast_fdiv {u v q : Int} (hv : (v : ZMod p) ≠ 0) (h : fdiv c.p u v = some q) :
    (q : ZMod p) = u / v := by
  have hp : 0 < c.p := lt_trans (by norm_num) hb.large
  obtain ⟨-, hd⟩ := fdiv_spec hp h
  rw [hb.modulus, ← ZMod.intCast_zmod_eq_zero_iff_dvd, Int.cast_sub, Int.cast_mul, sub_eq_zero] at hd
  exact (eq_div_iff hv).2 hd

/-- R203: a chord of the model has the slope of the group's formula. -/
theorem Curve.BoundOver.chord_slope {x1 y1 x2 y2 lam : Int} (hx : (x1 : ZMod p) ≠ x2)
    (hl : fdiv c.p (y2 - y1) (x2 - x1) = some lam) : (lam : ZMod p) = (c.weierstrass p).slope x1 x2 y1 y2 := by
  have hd : ((x2 - x1 : Int) : ZMod p) ≠ 0 := by
    rw [Int.cast_sub]
    exact sub_ne_zero.2 hx.symm
  rw [hb.cast_fdiv hd hl, WeierstrassCurve.Affine.slope_of_X_ne hx, ← neg_div_neg_eq]
  simp

/-- R202: a tangent of the model is not vertical and has the slope of the group's formula. -/
theorem Curve.BoundOver.tangent_slope {x y lam : Int} (hy : (y : ZMod p) ≠ 0)
    (hl : fdiv c.p (3 * x * x + c.a) (2 * y) = some lam) :
    (y : ZMod p) ≠ (c.weierstrass p).negY x y ∧ (lam : ZMod p) = (c.weierstrass p).slope x x y y := by
  have hd : ((2 * y : Int) : ZMod p) ≠ 0 := by
    rw [Int.cast_mul, Int.cast_ofNat]
    exact mul_ne_zero hb.two_ne_zero hy
  have e : (y : ZMod p) - (c.weierstrass p).negY x y = ((2 * y : Int) : ZMod p) := by
    simp [Curve.weierstrass, two_mul]
  have hne : (y : ZMod p) ≠ (c.weierstrass p).negY x y := sub_ne_zero.1 (e ▸ hd)
  refine ⟨hne, ?_⟩
  rw [WeierstrassCurve.Affine.slope_of_Y_ne rfl hne, e, hb.cast_fdiv hd hl]
  simp [Curve.weierstrass, pow_two, mul_assoc]

/-- The third point of a line stands for the sum of the two points it goes through. -/
theorem Point.standsFor_chordPoint {x1 y1 x2 y2 lam : Int} (h1 : (c.weierstrass p).Nonsingular x1 y1)
    (h2 : (c.weierstrass p).Nonsingular x2 y2) (hxy : ¬ ((x1 : ZMod p) = x2 ∧ (y1 : ZMod p) = (c.weierstrass p).negY x2 y2))
    (hl : (lam : ZMod p) = (c.weierstrass p).slope x1 x2 y1 y2) :
    (chordPoint c.p lam x1 y1 x2).StandsFor c p (.some _ _ h1 + .some _ _ h2) := by
  have hp : 0 < c.p := lt_trans (by norm_num) hb.large
  have hx : (((lam * lam - x1 - x2) % c.p : Int) : ZMod p) =
      (c.weierstrass p).addX x1 x2 ((c.weierstrass p).slope x1 x2 y1 y2) := by
    rw [hb.cast_emod, ← hl]
    simp [Curve.weierstrass, pow_two]
  have hy : (((lam * (x1 - (lam * lam - x1 - x2) % c.p) - y1) % c.p : Int) : ZMod p) =
      (c.weierstrass p).addY x1 x2 y1 ((c.weierstrass p).slope x1 x2 y1 y2) := by
    rw [hb.cast_emod, Int.cast_sub, Int.cast_mul, Int.cast_sub, hx, ← hl]
    simp only [WeierstrassCurve.Affine.addY, WeierstrassCurve.Affine.negY, WeierstrassCurve.Affine.negAddY, Curve.weierstrass]
    ring
  rw [WeierstrassCurve.Affine.Point.add_some hxy]
  refine ⟨Point.reduced_chordPoint hp lam x1 y1 x2, ?_, ?_⟩
  · rw [hx, hy]
    exact WeierstrassCurve.Affine.nonsingular_add h1 h2 hxy
  · simp only [hx, hy]

/-- On a prime field the double of the model is that of the group. -/
theorem Point.StandsFor.pdbl {P Q : Point} {g : (c.weierstrass p).Point} (hP : P.StandsFor c p g)
    (e : pdbl c P = some Q) : Q.StandsFor c p (2 • g) := by
  rw [two_nsmul]
  cases P with
  | inf =>
    cases e
    rw [show g = 0 from hP]
    exact add_zero 0
  | aff x y =>
    obtain ⟨⟨-, -, hy, hy'⟩, hn, rfl⟩ := hP
    by_cases h0 : y = 0
    · subst h0
      rw [pdbl_vertical] at e
      cases e
      exact WeierstrassCurve.Affine.Point.add_self_of_Y_eq (by simp [Curve.weierstrass])
    · rw [pdbl_tangent c x h0] at e
      obtain ⟨lam, hl, rfl⟩ := Option.map_eq_some_iff.1 e
      have hy0 : (y : ZMod p) ≠ 0 := fun hz =>
        h0 (hb.eq_of_cast_eq ⟨hy, hy'⟩ ⟨le_rfl, by omega⟩ (hz.trans Int.cast_zero.symm))
      obtain ⟨hne, hs⟩ := hb.tangent_slope hy0 hl
      exact Point.standsFor_chordPoint hb hn hn (fun hxy => hne hxy.2) hs

/-- On a prime field the sum of the model is that of the group. -/
theorem Point.StandsFor.padd {P Q R : Point} {g h : (c.weierstrass p).Point} (hP : P.StandsFor c p g)
    (hQ : Q.StandsFor c p h) (e : padd c P Q = some R) : R.StandsFor c p (g + h) := by
  rcases P with _ | ⟨x1, y1⟩ <;> rcases Q with _ | ⟨x2, y2⟩
  · cases e
    rwa [show g = 0 from hP, zero_add]
  · cases e
    rwa [show g = 0 from hP, zero_add]
  · cases e
    rwa [show h = 0 from hQ, add_zero]
  · have hP' := hP
    obtain ⟨⟨hx1, hx1', hy1, hy1'⟩, n1, rfl⟩ := hP
    obtain ⟨⟨hx2, hx2', hy2, hy2'⟩, n2, rfl⟩ := hQ
    by_cases hx : x1 = x2
    · subst hx
      by_cases hy : y1 = y2
      · subst hy
        rw [padd_self] at e
        rw [← two_nsmul]
        exact hP'.pdbl hb e
      · rw [padd_vertical c x1 hy] at e
        cases e
        rcases WeierstrassCurve.Affine.Y_eq_of_X_eq n1.1 n2.1 rfl with ey | ey
        · exact absurd (hb.eq_of_cast_eq ⟨hy1, hy1'⟩ ⟨hy2, hy2'⟩ ey) hy
        · exact WeierstrassCurve.Affine.Point.add_of_Y_eq rfl ey
    · rw [padd_chord c y1 y2 hx] at e
      obtain ⟨lam, hl, rfl⟩ := Option.map_eq_some_iff.1 e
      have hne : (x1 : ZMod p) ≠ x2 := mt (hb.eq_of_cast_eq ⟨hx1, hx1'⟩ ⟨hx2, hx2'⟩) hx
      exact Point.standsFor_chordPoint hb n1 n2 (fun hxy => hne hxy.1) (hb.chord_slope hne hl)

/-! ### Multiples (R221 to R224) -/

/-- The repeated addition of R223 gives the multiple of the group. -/
theorem Point.StandsFor.pointMultiple {P Q : Point} {g : (c.weierstrass p).Point} (hP : P.StandsFor c p g) {k : Nat}
    (e : pointMultiple c P k = some Q) : Q.StandsFor c p (k • g) := by
  match k with
  | 0 => cases e; exact zero_nsmul g
  | 1 => cases e; rwa [one_nsmul]
  | k + 2 =>
    obtain ⟨R, hR, hQ⟩ := pointMultiple_succ (by omega) e
    rw [succ_nsmul]
    exact (hP.pointMultiple hR).padd hb hP hQ

/-- One pass of the loop of R221 adds the second accumulator to the first where the bit is 1, and doubles it. -/
theorem Point.StandsFor.smulStep {acc acc' : Point × Point} {bit : Bool} {g h : (c.weierstrass p).Point}
    (hR : acc.1.StandsFor c p g) (hA : acc.2.StandsFor c p h) (e : smulStep c acc bit = some acc') :
    acc'.1.StandsFor c p (g + bit.toNat • h) ∧ acc'.2.StandsFor c p (2 • h) := by
  obtain ⟨R, hR', e⟩ := Option.bind_eq_some_iff.1 e
  obtain ⟨A, hA', rfl⟩ := Option.map_eq_some_iff.1 e
  refine ⟨?_, hA.pdbl hb hA'⟩
  cases bit with
  | false => cases hR'; simpa using hR
  | true => simpa using hR.padd hb hA hR'

/-- The loop of R221 adds `k` times its second accumulator to its first. -/
theorem Point.StandsFor.smulLoop {k : Nat} {R A Q : Point} {g h : (c.weierstrass p).Point} (hR : R.StandsFor c p g)
    (hA : A.StandsFor c p h) (e : (smulLoop c (bitsUp k) R A).1 = some Q) : Q.StandsFor c p (g + k • h) := by
  induction k using Nat.div2Induction generalizing R A g h with
  | ind k ih =>
    by_cases hk : k = 0
    · subst hk
      cases e
      simpa using hR
    · rw [bitsUp_pos hk] at e
      obtain ⟨R', A', hs, e', -⟩ := (repeats_smulLoop c).cons_some e
      obtain ⟨hR', hA'⟩ := smulStep hb (acc := (R, A)) hR hA hs
      have hsum : g + k • h = g + (k.testBit 0).toNat • h + (k / 2) • 2 • h := by
        rw [add_assoc, smul_smul, ← add_smul, add_comm (k.testBit 0).toNat, mul_comm, two_mul_half_add_testBit]
      rw [hsum]
      exact ih (by omega) hR' hA' e'

/-- One pass of the ladder of R222 keeps its invariant: the accumulators are the multiples for the scalar read so far and for
one more. -/
theorem Point.StandsFor.smulctStep {acc acc' : Point × Point} {bit : Bool} {v : Nat} {g : (c.weierstrass p).Point}
    (h0 : acc.1.StandsFor c p (v • g)) (h1 : acc.2.StandsFor c p ((v + 1) • g)) (e : smulctStep c acc bit = some acc') :
    acc'.1.StandsFor c p (Nat.bit bit v • g) ∧ acc'.2.StandsFor c p ((Nat.bit bit v + 1) • g) := by
  obtain ⟨S, hS, e⟩ := Option.bind_eq_some_iff.1 e
  have hS' : S.StandsFor c p ((2 * v + 1) • g) := by
    rw [two_mul, add_assoc, add_smul]
    exact h0.padd hb h1 hS
  cases bit with
  | false =>
    obtain ⟨D, hD, rfl⟩ := Option.map_eq_some_iff.1 e
    exact ⟨smul_smul 2 v g ▸ h0.pdbl hb hD, hS'⟩
  | true =>
    obtain ⟨D, hD, rfl⟩ := Option.map_eq_some_iff.1 e
    exact ⟨hS', smul_smul 2 (v + 1) g ▸ h1.pdbl hb hD⟩

/-- The ladder of R222 goes on to the multiple for the scalar read to its end. -/
theorem Point.StandsFor.smulctLoop {bits : List Bool} {v : Nat} {Q0 Q1 Q : Point} {g : (c.weierstrass p).Point}
    (h0 : Q0.StandsFor c p (v • g)) (h1 : Q1.StandsFor c p ((v + 1) • g)) (e : (smulctLoop c bits Q0 Q1).1 = some Q) :
    Q.StandsFor c p (appendBits v bits • g) := by
  induction bits generalizing v Q0 Q1 with
  | nil => cases e; exact h0
  | cons bit bits ih =>
    obtain ⟨P0, P1, hs, e', -⟩ := (repeats_smulctLoop c).cons_some e
    obtain ⟨h0', h1'⟩ := smulctStep hb (acc := (Q0, Q1)) h0 h1 hs
    exact ih h0' h1' e'

end

/-- R324 with CURVE's checks: under the host's duty a bound curve lies over a prime field. -/
theorem State.Inv.exists_boundOver {s : State} (h : s.Inv) (hc : s.cv = true) (hp : s.PrimeField) :
    ∃ p : Nat, Fact p.Prime ∧ s.crv.BoundOver p := by
  obtain ⟨h0, hprime⟩ := hp
  obtain ⟨hlarge, hdisc⟩ := h.bound hc
  exact ⟨s.crv.p.toNat, ⟨hprime⟩, ⟨(Int.toNat_of_nonneg h0).symm, hlarge, hdisc⟩⟩

/-- Settles O45: both loops and the repeated addition end at the point that stands for the multiple in the group. -/
theorem scalarMultiplesAgree : Obligations.ScalarMultiplesAgree := by
  intro s pd ps rk h hp hon hk
  have ⟨hi, _, hc⟩ := h
  obtain ⟨p, _, hb⟩ := hi.exists_boundOver hc hp
  have hs := State.sumsDefined hi hc hp
  obtain ⟨g, hg⟩ := (hon hp ps).exists_standsFor hb
  obtain ⟨M, hM, -⟩ := hs.pointMultiple (.register ps) (s.xval rk).toNat
  obtain ⟨R, hR⟩ := hs.smulLoop (bits := bitsUp (s.xval rk).toNat) .inf (.register ps)
  obtain ⟨Q, hQ⟩ := hs.smulctLoop (bits := bitsDown (s.xval rk).toNat) .inf (.register ps)
  have gM := hg.pointMultiple hb hM
  have gR : R.StandsFor s.crv p ((s.xval rk).toNat • g) := by
    simpa using Point.StandsFor.smulLoop hb (R := .inf) (g := 0) rfl hg hR
  have gQ : Q.StandsFor s.crv p ((s.xval rk).toNat • g) := by
    simpa [appendBits_bitsDown] using
      Point.StandsFor.smulctLoop hb (Q0 := .inf) (v := 0) (g := g) (zero_nsmul g) (by simpa using hg) hQ
  obtain ⟨t, ht, hok, hpt, -⟩ := exec_smul h pd hk hR
  obtain ⟨t', ht', hok', hpt', -⟩ := exec_smulct h pd hk hQ
  exact ⟨t, t', M, ht, ht', hM, hok.ended.code, hok'.ended.code, hpt.trans (gR.unique hb gM), hpt'.trans (gQ.unique hb gM)⟩

end Sys2Proof.Machine
end

section
/-! PROOFS. The statements about the system commands NOP, MOV and CLEAR (47_system.md). -/

namespace Sys2Proof.Machine

/-- R282: with FATAL set every command ends with E_FATAL. -/
theorem exec_raisesFatal {s : State} (hf : s.fatal = true) (i : Instr) : Raises i s .eFatal :=
  exec_refused (State.checked_fatal hf _ _ _)

/-! ### The registers CLEAR writes (R242) -/

theorem regOfBits_zero (k : Nat) : regOfBits k 0 = List.replicate k 0 := by
  induction k with
  | zero => rfl
  | succ k ih => rw [regOfBits, Nat.zero_div, ih, List.replicate_succ]; rfl

theorem regOfVal_zero (k : Nat) : regOfVal k 0 = List.replicate k 0 := by
  rw [regOfVal, Int.zero_emod, Int.toNat_zero, regOfBits_zero]

/-- The stored limbs after writes to distinct integer registers; `State.foldl_setX_mem` is about their values. -/
theorem State.x_foldl_setX_mem {l : List (XIdx × Int)} (hn : (l.map Prod.fst).Nodup) (s : State) {p : XIdx × Int}
    (hp : p ∈ l) : (l.foldl (fun t p => t.setX p.1 p.2) s).x[p.1.val] = regOfVal s.cfg.limbs p.2 := by
  induction l generalizing s with
  | nil => cases hp
  | cons q l ih =>
    obtain ⟨hq, hl⟩ := List.nodup_cons.1 hn
    rw [List.foldl_cons]
    rcases List.mem_cons.1 hp with rfl | hp
    · rw [State.foldl_setX_other l _ hq, State.setX_x, Vector.getElem_set_self]
    · exact ih hl (s.setX q.1 q.2) hp

/-- CLEAR's writes all at once: the context with the points, and every integer register. -/
theorem State.commit_clearWrites_eq (s : State) :
    s.commit clearWrites =
      { s.setContext { a := 0, b := 0, p := 0 } false with x := Vector.replicate 16 (List.replicate s.cfg.limbs 0) } := by
  have hn : (clearWrites.x.map Prod.fst).Nodup := by decide
  have hzero (i : XIdx) : (i, 0) ∈ clearWrites.x := List.mem_map_of_mem (List.mem_finRange i)
  have hx (i : XIdx) := State.x_foldl_setX_mem hn (s.setContext { a := 0, b := 0, p := 0 } false) (hzero i)
  rw [State.commit_clearWrites]
  obtain ⟨x', e⟩ := State.foldl_setX_eq clearWrites.x (s.setContext { a := 0, b := 0, p := 0 } false)
  rw [e] at hx ⊢
  have hx' : x' = Vector.replicate 16 (List.replicate s.cfg.limbs 0) := by
    ext1 i hi
    rw [Vector.getElem_replicate, ← regOfVal_zero]
    exact hx ⟨i, hi⟩
  rw [hx']

/-- Settles O19: CLEAR's run always completes, and its commit is `State.commit_clearWrites_eq`. -/
theorem clearResult : Obligations.ClearResult := by
  intro s _
  refine ⟨fun hf => exec_raisesFatal hf _, fun hf => ?_⟩
  refine ⟨_, exec_completes hf rfl nofun rfl (clearWrites_fit s.cfg), ?_⟩
  rw [State.commit_clearWrites_eq]
  exact ⟨⟨rfl, rfl, rfl⟩, ⟨rfl, rfl, rfl, rfl, rfl, rfl, rfl, rfl, rfl⟩, rfl, fun _ => Vector.getElem_replicate _,
    s.point_setContext { a := 0, b := 0, p := 0 } false, rfl, rfl, rfl⟩

/-! ### NOP and MOV (R240, R241) -/

/-- Settles O20: NOP's run writes no register, and the value MOV writes was read from a register, so it fits. -/
theorem nopMovResult : Obligations.NopMovResult := by
  intro s h
  refine ⟨fun hf => ⟨exec_raisesFatal hf _, fun rd rs => exec_raisesFatal hf _⟩, fun hf => ⟨?_, fun rd rs => ?_⟩⟩
  · obtain ⟨t, ht, hok, -⟩ := exec_writesIntegers (i := .nop) (l := []) ⟨h, hf⟩ rfl rfl nofun .nil nofun
    exact ⟨t, ht, hok⟩
  · obtain ⟨t, ht, hok, hv, -⟩ := exec_writesX (i := .mov rd rs) ⟨h, hf⟩ rfl rfl nofun (h.xval_fits rs)
    exact ⟨t, ht, hok, hv⟩

end Sys2Proof.Machine
end

section
/-! PROOFS. RSA on the NTE (48_host_procedures.md R254, R255, R258): rules for the parts of a host program that leave the
NTE ready for the next one, the power that encryption and decryption share, and the arithmetic that makes them inverse. -/

namespace Sys2Proof.Machine

/-! ### Host programs that leave the NTE ready -/

theorem State.HostReady.inv {s : State} (h : s.HostReady) : s.Inv := h.1.1

theorem State.HostReady.fatal {s : State} (h : s.HostReady) : s.fatal = false := h.1.2

theorem State.HostReady.idle {s : State} (h : s.HostReady) : s.pend = none := h.2.1

theorem State.HostReady.resetLine {s : State} (h : s.HostReady) : s.resetLine = false := h.2.2

theorem State.HostReady.not_busy {s : State} (h : s.HostReady) : s.busy = false := by simp [State.busy, h.idle]

/-- `t` is ready for the host as `s` was, with the parameters of `s`. -/
structure State.StaysReady (s t : State) : Prop where
  ready : t.HostReady
  cfg : t.cfg = s.cfg

/-- What an access or a command has to leave as it was. -/
theorem State.HostReady.staysReady {s t : State} (h : s.HostReady) (inv : t.Inv) (fatal : t.fatal = s.fatal)
    (idle : t.pend = none) (line : t.resetLine = s.resetLine) (cfg : t.cfg = s.cfg) : s.StaysReady t :=
  ⟨⟨⟨inv, fatal.trans h.fatal⟩, idle, line.trans h.resetLine⟩, cfg⟩

theorem State.StaysReady.trans {s t u : State} (h : s.StaysReady t) (k : t.StaysReady u) : s.StaysReady u :=
  ⟨k.ready, k.cfg.trans h.cfg⟩

/-- The host program `m` leaves every ready NTE ready, where it does not fail. -/
def KeepsReady {α : Type} (m : HostM α) : Prop :=
  ∀ ⦃h a h'⦄, h.nte.HostReady → m.run h = .ok a h' → h.nte.StaysReady h'.nte

/-- A program whose first part succeeds goes on with the second part. -/
theorem run_bind_of_ok {α β : Type} {m : HostM α} {a : α} {h h' : HostState} (hm : m.run h = .ok a h')
    (f : α → HostM β) : (m >>= f).run h = (f a).run h' := by
  rw [EStateM.run_bind, hm]

theorem KeepsReady.pure {α : Type} (a : α) : KeepsReady (pure a) := by
  intro h _ _ hr e
  cases e
  exact ⟨hr, rfl⟩

theorem KeepsReady.get : KeepsReady (get : HostM HostState) := by
  intro h _ _ hr e
  cases e
  exact ⟨hr, rfl⟩

theorem KeepsReady.bind {α β : Type} {m : HostM α} {f : α → HostM β} (hm : KeepsReady m) (hf : ∀ a, KeepsReady (f a)) :
    KeepsReady (m >>= f) := by
  intro h b h' hr e
  cases hrun : m.run h with
  | ok a u =>
    rw [run_bind_of_ok hrun] at e
    have hu := hm hr hrun
    exact hu.trans (hf a hu.ready e)
  | error x u =>
    rw [EStateM.run_bind, hrun] at e
    cases e

theorem KeepsReady.forM {α : Type} {f : α → HostM Unit} (hf : ∀ a, KeepsReady (f a)) (l : List α) :
    KeepsReady (l.forM f) := by
  induction l with
  | nil => exact .pure ()
  | cons a l ih => exact .bind (hf a) fun _ => ih

theorem KeepsReady.foldlM {α β : Type} {f : β → α → HostM β} (hf : ∀ b a, KeepsReady (f b a)) (l : List α) (b : β) :
    KeepsReady (l.foldlM f b) := by
  induction l generalizing b with
  | nil => exact .pure b
  | cons a l ih => exact .bind (hf b a) fun c => ih c

theorem State.HostReady.refuseAccess {s : State} (h : s.HostReady) : s.StaysReady s.refuseAccess :=
  h.staysReady h.inv.refuseAccess rfl h.idle rfl rfl

theorem State.HostReady.windowWrite_xsel {s : State} (h : s.HostReady) (v : Word) :
    s.StaysReady (windowWrite 0x14 v s) := by
  rw [Machine.windowWrite_xsel h.not_busy]
  exact h.staysReady (h.inv.withControl _ _ _ _ _ _) rfl h.idle rfl rfl

theorem State.HostReady.windowWrite_xlimb {s : State} (h : s.HostReady) (v : Word) :
    s.StaysReady (windowWrite 0x18 v s) := by
  rw [Machine.windowWrite_xlimb h.not_busy]
  by_cases hl : s.xselLimb.toNat < s.cfg.limbs
  · rw [writeXlimb_selected hl]
    exact h.staysReady (h.inv.setLimb _ _ v) rfl h.idle rfl rfl
  · rw [writeXlimb_outside (not_lt.1 hl)]
    exact h.refuseAccess

theorem State.HostReady.windowRead {s : State} (h : s.HostReady) (off : Nat) :
    s.StaysReady (windowRead off s).2 := by
  rcases windowRead_state off s with e | ⟨-, -, e⟩
  · rw [e]; exact ⟨h, rfl⟩
  · rw [e]; exact h.refuseAccess

theorem hostWrite_run (off : Nat) (v : Word) (h : HostState) :
    (hostWrite off v).run h = .ok () { h with nte := windowWrite off v h.nte } := rfl

theorem keepsReady_hostWrite_xsel (v : Word) : KeepsReady (hostWrite 0x14 v) := by
  intro h _ _ hr e
  cases e
  exact hr.windowWrite_xsel v

theorem keepsReady_hostWrite_xlimb (v : Word) : KeepsReady (hostWrite 0x18 v) := by
  intro h _ _ hr e
  cases e
  exact hr.windowWrite_xlimb v

theorem keepsReady_hostRead (off : Nat) : KeepsReady (hostRead off) := by
  intro h _ _ hr e
  cases e
  exact hr.windowRead off

theorem keepsReady_loadX (i : XIdx) (v : Int) : KeepsReady (loadX i v) :=
  .bind .get fun _ => .forM (fun _ => .bind (keepsReady_hostWrite_xsel _) fun _ => keepsReady_hostWrite_xlimb _) _

theorem keepsReady_readX (i : XIdx) : KeepsReady (readX i) :=
  .bind .get fun _ =>
    .bind
      (.foldlM (fun _ _ => .bind (keepsReady_hostWrite_xsel _) fun _ => .bind (keepsReady_hostRead _) fun _ => .pure _) _ _)
      fun _ => .pure _

/-! ### The three recipes, on a ready NTE -/

theorem loadX_writes {h : HostState} (hr : h.nte.HostReady) (i : XIdx) {v : Int} (hv : fits h.nte.cfg v) :
    ∃ h', (loadX i v).run h = .ok () h' ∧ h.nte.StaysReady h'.nte ∧ h'.nte.xval i = v ∧
      ∀ j : XIdx, j ≠ i → h'.nte.xval j = h.nte.xval j := by
  obtain ⟨h', -, hrun, hv, hother, -⟩ := loadThenRead h i v hr hv
  exact ⟨h', hrun, keepsReady_loadX i v hr hrun, hv, fun j hj => congrArg regVal (hother j hj)⟩

theorem readX_answers {h : HostState} (hr : h.nte.HostReady) (i : XIdx) :
    ∃ h', (readX i).run h = .ok (h.nte.xval i) h' ∧ h.nte.StaysReady h'.nte := by
  obtain ⟨-, hL, -⟩ := hr.inv.legal
  obtain ⟨h', hrun⟩ := readX_run hr.idle hL i (hr.inv.regLength i)
  exact ⟨h', hrun, keepsReady_readX i hr hrun⟩

theorem codeField_statusWord (s : State) : (statusWord s).toNat / 2 ^ 8 % 2 ^ 8 = s.code.number := by
  obtain ⟨-, -, -, -, -, -, hcode, -⟩ := statusFields s
  have hlt : s.code.number < 2 ^ 8 := by cases s.code <;> decide
  rw [hcode, Nat.mod_eq_of_lt hlt]

/-- The recipe that runs a command makes of a ready NTE what the command makes of it once it is issued, and answers its
code. -/
theorem runCmd_run {h : HostState} (hr : h.nte.HostReady) {i : Instr} {t : State}
    (ht : exec i (h.nte.issue (encode i)) = .next t) :
    (runCmd i).run h = .ok t.code.number { h with nte := t } := by
  have hissue : (hostWrite 0x08 (encode i)).run h = .ok () { h with nte := h.nte.issue (encode i) } := by
    rw [hostWrite_run, windowWrite_cmd hr.not_busy]
  have hline : (h.nte.issue (encode i)).resetLine = false := hr.resetLine
  have hturn : engineTurn (h.nte.issue (encode i)) = .next t := by
    rw [engineTurn_pending hline rfl, runWord_legal (decodeOfEncode i), ht]
  have hwait : awaitDone.run { h with nte := h.nte.issue (encode i) } = .ok () { h with nte := t } := by
    simp only [awaitDone, EStateM.run_modify, hturn]
  rw [runCmd, run_bind_of_ok hissue, run_bind_of_ok hwait, ← codeField_statusWord]
  rfl

/-- An issued command that completes OK leaves the NTE ready. -/
theorem State.CompletedOk.staysReady {s t : State} {w : Word} {i : Instr} {xs : List XIdx} {ps : List PIdx} {k : Nat}
    (hr : s.HostReady) (ht : exec i (s.issue w) = .next t) (h : (s.issue w).CompletedOk t xs ps k) : s.StaysReady t := by
  obtain ⟨u, hu, hends⟩ := exec_commandEnds i (s.issue w)
  cases hu.symm.trans ht
  exact hr.staysReady ((hr.inv.issue w).commandEnds hends) h.fatal h.ended.idle h.control.resetLine h.control.cfg

/-! ### The exponentiation that encryption and decryption share (R254, R255, R258) -/

theorem exec_powInstr (v : Variant) {s : State} (h : s.Ready) (rd rb re rm : XIdx) (hm : 1 ≤ s.xval rm)
    (he : 0 ≤ s.xval re) :
    ∃ t, exec (powInstr v rd rb re rm) s = .next t ∧ s.CompletedOk t [rd] [] 0 ∧
      t.xval rd = s.xval rb ^ (s.xval re).toNat % s.xval rm := by
  cases v with
  | fast =>
    obtain ⟨t, ht, hok, hx, -⟩ := (modpowResult s rd rb re rm h).2 hm he
    exact ⟨t, ht, hok, hx⟩
  | ladder =>
    obtain ⟨t, ht, hok, hx, -⟩ := (modpowctResult s rd rb re rm h).2 hm he
    exact ⟨t, ht, hok, hx⟩

theorem runCmd_powInstr (v : Variant) {h : HostState} (hr : h.nte.HostReady) (rd rb re rm : XIdx)
    (hm : 1 ≤ h.nte.xval rm) (he : 0 ≤ h.nte.xval re) :
    ∃ h', (runCmd (powInstr v rd rb re rm)).run h = .ok Code.ok.number h' ∧ h.nte.StaysReady h'.nte ∧
      h'.nte.xval rd = h.nte.xval rb ^ (h.nte.xval re).toNat % h.nte.xval rm := by
  have hissued : (h.nte.issue (encode (powInstr v rd rb re rm))).Ready := ⟨hr.inv.issue _, hr.fatal⟩
  obtain ⟨t, ht, hok, hx⟩ := exec_powInstr v hissued rd rb re rm hm he
  have hrun := runCmd_run hr ht
  rw [hok.ended.code] at hrun
  exact ⟨_, hrun, hok.staysReady hr ht, hx⟩

/-- With operands that fit, the NTE answers the power, and is ready for the next procedure. -/
theorem rsaPower_run (ps : HostParams) {h : HostState} (hr : h.nte.HostReady) {b e n : Int} (hb : fits h.nte.cfg b)
    (he : fits h.nte.cfg e) (hn : fits h.nte.cfg n) (he0 : 0 ≤ e) (hn1 : 1 ≤ n) :
    ∃ h', (rsaPower ps b e n).run h = .ok (b ^ e.toNat % n) h' ∧ h.nte.StaysReady h'.nte := by
  obtain ⟨h1, hrun1, hs1, hb1, -⟩ := loadX_writes hr 0 hb
  obtain ⟨h2, hrun2, hs2, he2, hk2⟩ := loadX_writes hs1.ready 1 (v := e) (by rwa [hs1.cfg])
  obtain ⟨h3, hrun3, hs3, hn3, hk3⟩ := loadX_writes hs2.ready 2 (v := n) (by rwa [hs2.cfg, hs1.cfg])
  have hb3 : h3.nte.xval 0 = b := by rw [hk3 0 (by decide), hk2 0 (by decide), hb1]
  have he3 : h3.nte.xval 1 = e := by rw [hk3 1 (by decide), he2]
  obtain ⟨h4, hrun4, hs4, hv4⟩ := runCmd_powInstr ps.variant hs3.ready 3 0 1 2 (hn3 ▸ hn1) (he3 ▸ he0)
  obtain ⟨h5, hrun5, hs5⟩ := readX_answers hs4.ready 3
  refine ⟨h5, ?_, (((hs1.trans hs2).trans hs3).trans hs4).trans hs5⟩
  rw [rsaPower, run_bind_of_ok hrun1, run_bind_of_ok hrun2, run_bind_of_ok hrun3, run_bind_of_ok hrun4, hrun5, hv4, hb3,
    he3, hn3]

theorem encrypt_inRange (ps : HostParams) {m n : Int} (h : 0 ≤ m ∧ m < n) (e : Int) :
    encrypt ps m e n = rsaPower ps m e n := if_pos h

theorem decrypt_inRange (ps : HostParams) {c n : Int} (h : 0 ≤ c ∧ c < n) (d : Int) :
    decrypt ps c d n = rsaPower ps c d n := if_pos h

theorem encrypt_outside (ps : HostParams) {m n : Int} (h : ¬ (0 ≤ m ∧ m < n)) (e : Int) :
    encrypt ps m e n = throw (.kind .messageTooLarge) := if_neg h

theorem decrypt_outside (ps : HostParams) {c n : Int} (h : ¬ (0 ≤ c ∧ c < n)) (d : Int) :
    decrypt ps c d n = throw (.kind .invalidCiphertext) := if_neg h

/-! ### Why the two powers are inverse -/

/-- Fermat's little theorem for an exponent that is 1 mod `p - 1`, the multiples of `p` included. -/
theorem pow_modEq_self_of_modEq_one {p k : Nat} (hp : p.Prime) (h0 : k ≠ 0) (hk : k ≡ 1 [MOD p - 1]) (m : Int) :
    m ^ k ≡ m [ZMOD p] := by
  have := Fact.mk hp
  rw [← ZMod.intCast_eq_intCast_iff, Int.cast_pow]
  by_cases hm : (m : ZMod p) = 0
  · rw [hm, zero_pow h0]
  · rw [pow_eq_pow_of_modEq hk (ZMod.pow_card_sub_one_eq_one hm), pow_one]

/-- An exponent that is 1 mod `(p-1)*(q-1)` is not 0, for `p - 1` and `q - 1` are not both 1. -/
theorem ne_zero_of_modEq_one {p q k : Nat} (hne : p ≠ q) (hk : k ≡ 1 [MOD (p - 1) * (q - 1)]) : k ≠ 0 := by
  rintro rfl
  have hone : (p - 1) * (q - 1) = 1 := Nat.dvd_one.1 (Nat.modEq_zero_iff_dvd.1 hk.symm)
  have hp1 := Nat.eq_one_of_mul_eq_one_right hone
  have hq1 := Nat.eq_one_of_mul_eq_one_left hone
  omega

/-- An exponent that is 1 mod `(p-1)*(q-1)` leaves every number unchanged mod `p*q`. -/
theorem pow_modEq_self_of_primes {p q k : Nat} (hp : p.Prime) (hq : q.Prime) (hne : p ≠ q)
    (hk : k ≡ 1 [MOD (p - 1) * (q - 1)]) (m : Int) : m ^ k ≡ m [ZMOD (p * q : Nat)] := by
  have h0 := ne_zero_of_modEq_one hne hk
  have hcoprime : (p : Int).natAbs.Coprime (q : Int).natAbs := (Nat.coprime_primes hp hq).2 hne
  rw [Nat.cast_mul]
  exact (Int.modEq_and_modEq_iff_modEq_mul hcoprime).1
    ⟨pow_modEq_self_of_modEq_one hp h0 (hk.of_mul_right _) m, pow_modEq_self_of_modEq_one hq h0 (hk.of_mul_left _) m⟩

/-- RSA without the NTE: the `d`-th power of the `e`-th power is the message again. -/
theorem rsa_decrypts {p q : Nat} {e d m : Int} (hp : p.Prime) (hq : q.Prime) (hne : p ≠ q) (he : 0 ≤ e) (hd : 0 ≤ d)
    (hed : e * d % (((p - 1) * (q - 1) : Nat) : Int) = 1 % (((p - 1) * (q - 1) : Nat) : Int)) (hm : 0 ≤ m)
    (hmn : m < (p * q : Nat)) :
    (m ^ e.toNat % (p * q : Nat)) ^ d.toNat % (p * q : Nat) = m := by
  lift e to Nat using he
  lift d to Nat using hd
  have hk : e * d ≡ 1 [MOD (p - 1) * (q - 1)] := by exact_mod_cast hed
  have hpow : (m ^ e % (p * q : Nat)) ^ d ≡ m [ZMOD (p * q : Nat)] :=
    calc (m ^ e % (p * q : Nat)) ^ d ≡ (m ^ e) ^ d [ZMOD (p * q : Nat)] := (Int.mod_modEq _ _).pow d
      _ = m ^ (e * d) := (pow_mul m e d).symm
      _ ≡ m [ZMOD (p * q : Nat)] := pow_modEq_self_of_primes hp hq hne hk m
  exact hpow.eq.trans (Int.emod_eq_of_lt hm hmn)

/-- Settles O60: both procedures are a power on the NTE, which `rsa_decrypts` shows inverse. -/
theorem rsaRoundTrip : Obligations.RsaRoundTrip := by
  constructor
  · intro h ps p q e d m hr hp hq hne he hd hed hefit hdfit hnfit hm hmn
    have hn : (0 : Int) < (p * q : Nat) := hm.trans_lt hmn
    obtain ⟨h', hrun, hs⟩ := rsaPower_run ps hr (fits_of_between hnfit hm hmn.le) hefit hnfit he hn
    rw [← hs.cfg] at hdfit hnfit
    have hc : 0 ≤ m ^ e.toNat % (p * q : Nat) ∧ m ^ e.toNat % (p * q : Nat) < (p * q : Nat) :=
      ⟨Int.emod_nonneg _ hn.ne', Int.emod_lt_of_pos _ hn⟩
    obtain ⟨h'', hrun', -⟩ := rsaPower_run ps hs.ready (fits_emod (m ^ e.toNat) hn hnfit) hdfit hnfit hd hn
    rw [rsa_decrypts hp hq hne he hd hed hm hmn] at hrun'
    exact ⟨_, h', h'', by rw [encrypt_inRange ps ⟨hm, hmn⟩, hrun], by rw [decrypt_inRange ps hc, hrun']⟩
  · intro h ps m e n hout
    rw [encrypt_outside ps hout, decrypt_outside ps hout]
    exact ⟨rfl, rfl⟩

end Sys2Proof.Machine
end

section
/-! PROOFS. The codes a command's own run and the command itself end with, the curve check and the results that fit
included (R281, R285 to R287). -/

namespace Sys2Proof.Machine

/-! ### DivisionByZero is the fatal end only (R14, R290) -/

theorem pointRun_fatal_of_code {pd : PIdx} {ev : Event} {r : Option Point}
    (h : (pointRun pd ev r).ending.code = .divisionByZero) : (pointRun pd ev r).ending = .fatalDivisionByZero := by
  cases r with
  | none => rfl
  | some P => cases h

theorem scalarRun_fatal_of_code {pd : PIdx} {r : Option Point × List Event}
    (h : (scalarRun pd r).ending.code = .divisionByZero) : (scalarRun pd r).ending = .fatalDivisionByZero := by
  obtain ⟨_ | P, tr⟩ := r
  · rfl
  · cases h

theorem orderRun_fatal_of_code {rd : XIdx} {r : Option (Point × Nat) × List Event}
    (h : (orderRun rd r).ending.code = .divisionByZero) : (orderRun rd r).ending = .fatalDivisionByZero := by
  obtain ⟨_ | ⟨_ | _, k⟩, tr⟩ := r
  · rfl
  · cases h
  · cases h

/-- A check that raises E_RANGE before a run adds no other code to it. -/
theorem fatal_of_code_checked {p : Prop} [Decidable p] {r : Run}
    (hr : r.ending.code = .divisionByZero → r.ending = .fatalDivisionByZero)
    (h : (if p then Run.raised .eRange else r).ending.code = .divisionByZero) :
    (if p then Run.raised .eRange else r).ending = .fatalDivisionByZero := by
  split at h
  · cases h
  · rw [if_neg ‹_›]; exact hr h

/-- The code DivisionByZero comes from a missing sum, never from a raise, and from the five commands that form sums only. -/
theorem bodyOf_fatal_of_code {i : Instr} {s : State} (h : (bodyOf i s).ending.code = .divisionByZero) :
    (bodyOf i s).ending = .fatalDivisionByZero ∧ .divisionByZero ∈ ownCodes i := by
  cases hn : needsCurve i with
  | false => exact absurd h (code_bodyOf_ne_divisionByZero s hn)
  | true =>
    cases i with
    | oncurve | pinf | pstore | pmov | pneg => cases h
    | pload =>
      simp only [bodyOf, ploadRun] at h
      split at h
      · cases h
      · cases h
    | padd | pdbl => exact ⟨pointRun_fatal_of_code h, by simp [ownCodes]⟩
    | smul | smulct => exact ⟨fatal_of_code_checked scalarRun_fatal_of_code h, by simp [ownCodes]⟩
    | porder => exact ⟨fatal_of_code_checked orderRun_fatal_of_code h, by simp [ownCodes]⟩
    | _ => cases hn

/-! ### The code of a command -/

/-- A command's own run ends with OK or with a code of its row of R287. -/
theorem code_bodyOf (i : Instr) (s : State) :
    (bodyOf i s).ending.code = .ok ∨ (bodyOf i s).ending.code ∈ ownCodes i := by
  cases he : (bodyOf i s).ending with
  | complete w => exact .inl rfl
  | raise c =>
    have hr := runEnds_bodyOf i s
    rw [he] at hr
    cases hr with
    | raise h => exact .inr h
  | fatalDivisionByZero => exact .inr (bodyOf_fatal_of_code (by rw [he]; rfl)).2

/-- Everything the code of a command can be: that of a shared check, that of its own run, or E_OVERFLOW where its results do
not fit. -/
theorem code_exec {i : Instr} {s t : State} (ht : exec i s = .next t) :
    t.code = .eFatal ∨ (t.code = .eIllegal ∧ i.wellFormed = false) ∨ (t.code = .eNoCurve ∧ needsCurve i = true) ∨
    t.code = (bodyOf i s).ending.code ∨
    (t.code = .eOverflow ∧ ∃ w, (bodyOf i s).ending = .complete w ∧ ¬ w.fit s.cfg) := by
  rw [exec_next] at ht
  cases ht
  rcases s.checked_cases i.wellFormed (needsCurve i) (bodyOf i s) with
    ⟨-, e⟩ | ⟨-, hw, e⟩ | ⟨-, -, hn, -, e⟩ | ⟨-, -, -, e⟩ <;> rw [e]
  · exact .inl rfl
  · exact .inr (.inl ⟨rfl, hw⟩)
  · exact .inr (.inr (.inl ⟨rfl, hn⟩))
  · right; right; right
    rcases s.conclude_cases (bodyOf i s) with ⟨w, hr, -, e⟩ | ⟨w, hr, hfit, e⟩ | ⟨c, hr, e⟩ | ⟨hr, e⟩ <;> rw [e]
    · exact .inl (by rw [hr]; rfl)
    · exact .inr ⟨rfl, w, hr, hfit⟩
    · exact .inl (by rw [hr]; rfl)
    · exact .inl (by rw [hr]; rfl)

theorem eNoCurve_mem_ownCodes_iff {i : Instr} : .eNoCurve ∈ ownCodes i ↔ needsCurve i = true := by
  cases i <;> simp [ownCodes, needsCurve]

/-! ### The curve check (R285) -/

/-- No command's own run looks at `CV`. -/
theorem bodyOf_withCv (i : Instr) (s : State) (b : Bool) : bodyOf i { s with cv := b } = bodyOf i s := by
  cases i <;> rfl

theorem State.foldl_setX_withCv (l : List (XIdx × Int)) (s : State) (b : Bool) :
    l.foldl (fun t p => t.setX p.1 p.2) { s with cv := b } =
      { l.foldl (fun t p => t.setX p.1 p.2) s with cv := b } :=
  List.foldl_hom (fun t : State => { t with cv := b }) (g₁ := fun t (p : XIdx × Int) => t.setX p.1 p.2) fun _ _ => rfl

theorem State.foldl_setPoint_withCv (l : List (PIdx × Point)) (s : State) (b : Bool) :
    l.foldl (fun t p => t.setPoint p.1 p.2) { s with cv := b } =
      { l.foldl (fun t p => t.setPoint p.1 p.2) s with cv := b } :=
  List.foldl_hom (fun t : State => { t with cv := b }) (g₁ := fun t (p : PIdx × Point) => t.setPoint p.1 p.2) fun _ _ => rfl

/-- A commit does not look at `CV`; where the command writes the context it writes `CV` too. -/
theorem State.commit_withCv (s : State) (b : Bool) (w : Writes) :
    ∃ b', State.commit { s with cv := b } w = { s.commit w with cv := b' } := by
  unfold State.commit
  cases w.context with
  | none => exact ⟨b, by simp only [State.foldl_setX_withCv, State.foldl_setPoint_withCv]⟩
  | some c => exact ⟨_, rfl⟩

theorem State.conclude_withCv (s : State) (b : Bool) (r : Run) :
    ∃ b', State.conclude { s with cv := b } r = { s.conclude r with cv := b' } := by
  unfold State.conclude
  cases r.ending with
  | complete w =>
    dsimp only
    split
    · obtain ⟨b', e⟩ := s.commit_withCv b w
      rw [e]
      exact ⟨b', rfl⟩
    · exact ⟨b, rfl⟩
  | raise c => exact ⟨b, rfl⟩
  | fatalDivisionByZero => exact ⟨b, rfl⟩

/-- R285: a command outside the list leaves the same state whatever `CV` is, but for `CV`. -/
theorem exec_withCv {i : Instr} (hn : needsCurve i = false) {s t : State} (b : Bool) (ht : exec i s = .next t) :
    ∃ b', exec i { s with cv := b } = .next { t with cv := b' } := by
  rw [exec_next, hn] at ht
  cases ht
  obtain ⟨b', e⟩ := s.conclude_withCv b (s.checked i.wellFormed false (bodyOf i s))
  refine ⟨b', ?_⟩
  rw [exec_next, hn, bodyOf_withCv, ← e]
  rfl

/-- Settles O13, by the third of the shared checks and, for the other commands, by `exec_withCv` and `code_exec`. -/
theorem curveCheck : Obligations.CurveCheck := by
  refine ⟨fun i s hf hc hn hw => exec_refused (by rw [hw, hn, State.checked_noCurve hf hc]), fun i s b hn => ?_⟩
  obtain ⟨t, ht, -⟩ := exec_commandEnds i s
  obtain ⟨b', ht'⟩ := exec_withCv hn b ht
  refine ⟨t, _, ht, ht', fun hcode => ?_, rfl⟩
  rcases code_exec ht with e | ⟨e, -⟩ | ⟨-, h⟩ | e | ⟨e, -⟩
  · cases hcode.symm.trans e
  · cases hcode.symm.trans e
  · cases hn.symm.trans h
  · rcases code_bodyOf i s with h | h <;> rw [← e, hcode] at h
    · cases h
    · cases hn.symm.trans (eNoCurve_mem_ownCodes_iff.1 h)
  · cases hcode.symm.trans e

/-! ### Results that fit (R286) -/

/-- Every value that the run writes to an integer register when it completes fits. -/
def Run.Fits (c : Config) (r : Run) : Prop := ∀ w, r.ending = .complete w → w.fit c

theorem Run.Fits.of_writes {c : Config} {w : Writes} {tr : List Event} {k : Nat} (h : w.fit c) :
    Run.Fits c { ending := .complete w, trace := tr, draws := k } := by
  intro w' e
  cases e
  exact h

theorem Run.Fits.of_integers {c : Config} {l : List (XIdx × Int)} {tr : List Event} {k : Nat}
    (h : ∀ p ∈ l, fits c p.2) : Run.Fits c { ending := .complete { x := l }, trace := tr, draws := k } := .of_writes h

theorem Run.Fits.of_value {c : Config} {rd : XIdx} {v : Int} {tr : List Event} {k : Nat} (h : fits c v) :
    Run.Fits c { ending := .complete { x := [(rd, v)] }, trace := tr, draws := k } :=
  .of_integers (by simpa using h)

theorem Run.Fits.of_raise {c : Config} {k : Code} {tr : List Event} : Run.Fits c { ending := .raise k, trace := tr } :=
  nofun

theorem Run.Fits.of_check {c : Config} {p : Prop} [Decidable p] {k : Code} {r : Run} (h : ¬ p → r.Fits c) :
    Run.Fits c (if p then Run.raised k else r) := by
  split
  · exact .of_raise
  · exact h ‹_›

theorem Run.Fits.pointRun {c : Config} {pd : PIdx} {ev : Event} {r : Option Point} : (pointRun pd ev r).Fits c := by
  cases r with
  | none => exact nofun
  | some P => exact .of_writes (by simp)

theorem Run.Fits.scalarRun {c : Config} {pd : PIdx} {r : Option Point × List Event} : (scalarRun pd r).Fits c := by
  obtain ⟨_ | P, tr⟩ := r
  · exact nofun
  · exact .of_writes (by simp)

theorem Run.Fits.reduceRun {c : Config} {rd : XIdx} {v m : Int} {free : List Event} (hm : fits c m) :
    (reduceRun rd v m free).Fits c := by
  rcases Int.lt_or_le m 1 with h | h
  · rw [reduceRun_range rd v h]; exact .of_raise
  · rw [reduceRun_inRange rd v h]; exact .of_value (fits_emod v h hm)

theorem Run.Fits.powRun {c : Config} {rd : XIdx} {f : Int → Nat → Int → Int × List Event} {b e m : Int} (hm : fits c m)
    (hf : ∀ b e m, 1 ≤ m → (f b e m).1 = b ^ e % m) : (powRun rd f b e m).Fits c := by
  by_cases h : m < 1 ∨ e < 0
  · rw [powRun_range rd f b h]; exact .of_raise
  · obtain ⟨h1, h0⟩ : 1 ≤ m ∧ 0 ≤ e := by omega
    rw [powRun_inRange rd f b h1 h0, hf _ _ _ h1]
    exact .of_value (fits_emod _ h1 hm)

theorem Run.Fits.xgcdRun {c : Config} {rg rx ry : XIdx} {a b : Int} {free : List Event} (hL : 1 ≤ c.limbs)
    (ha : fits c a) (hb : fits c b) : (xgcdRun rg rx ry a b free).Fits c := by
  by_cases h : a < 0 ∨ b < 0
  · rw [xgcdRun_negative rg rx ry h]; exact .of_raise
  · obtain ⟨ha0, hb0⟩ : 0 ≤ a ∧ 0 ≤ b := by omega
    rw [xgcdRun_nonneg rg rx ry ha0 hb0]
    lift a to Nat using ha0
    lift b to Nat using hb0
    exact .of_integers (by simpa using egcd_fits hL ha hb)

theorem Run.Fits.modinvRun {c : Config} {rd : XIdx} {a n : Int} {free : List Event} (hn : fits c n) :
    (modinvRun rd a n free).Fits c := by
  rcases Int.lt_or_le n 1 with h | h
  · rw [modinvRun_range rd a h]; exact .of_raise
  · by_cases hg : Int.gcd a n = 1
    · rw [modinvRun_some rd h hg]; exact .of_value (fits_emod _ h hn)
    · rw [modinvRun_none rd h hg]; exact .of_raise

theorem Run.Fits.modsqrtRun {c : Config} {rd : XIdx} {a p : Int} {free : List Event} (hp : fits c p) :
    (modsqrtRun rd a p free).Fits c := by
  unfold Machine.modsqrtRun
  split
  · exact .of_raise
  · have h : 1 ≤ p := by omega
    split
    · exact .of_raise
    · split
      · exact .of_raise
      · rw [modPow_fst a _ h]; exact .of_value (fits_emod _ h hp)

theorem Run.Fits.mrtestRun {c : Config} (hL : 1 ≤ c.limbs) (rd : XIdx) (n : Int) (rounds : Nat) (answer : Nat → Int) :
    (mrtestRun rd n rounds answer).Fits c := by
  refine .of_value ?_
  rcases mrTest_fst_cases n rounds answer with e | e <;> rw [e]
  · exact zero_fits c
  · exact one_fits hL

/-- The loop of R223 counts its additions, of which it makes at most `n`. -/
theorem orderLoop_count_le {c : Curve} {P Q R : Point} {n k m : Nat} (h : (orderLoop c P n Q k).1 = some (R, m)) :
    m ≤ k + n := by
  induction n generalizing Q k with
  | zero => cases h; omega
  | succ n ih =>
    rw [orderLoop] at h
    split at h
    · cases h; omega
    · cases hS : padd c Q P with
      | none => simp [hS] at h
      | some Q' =>
        simp only [hS, emitBefore] at h
        have := ih h
        omega

theorem Run.Fits.porderRun {c : Config} {rd : XIdx} {crv : Curve} {P : Point} {M : Int} (hM : fits c M) :
    (porderRun rd crv P M).Fits c := by
  refine .of_check fun h1 => ?_
  have hcount : ∀ R m, (orderLoop crv P (M - 1).toNat P 1).1 = some (R, m) → m ≤ 1 + (M - 1).toNat :=
    fun _ _ => orderLoop_count_le
  generalize orderLoop crv P (M - 1).toNat P 1 = r at hcount
  obtain ⟨_ | ⟨_ | _, k⟩, tr⟩ := r
  · exact nofun
  · have hk : k ≤ 1 + (M - 1).toNat := hcount _ k rfl
    exact .of_value (fits_of_between hM (by omega) (by omega))
  · exact .of_raise

/-- R286: under the invariant only GCD and TOTIENT can have a result that does not fit. -/
theorem State.Inv.bodyOf_fits {s : State} (h : s.Inv) {i : Instr} (ho : .eOverflow ∉ ownCodes i) :
    (bodyOf i s).Fits s.cfg := by
  have hL := h.legal.1
  cases i with
  | gcd | totient => simp [ownCodes] at ho
  | nop | pinf | pmov | pneg => exact .of_writes (by simp)
  | clear => exact .of_writes (clearWrites_fit s.cfg)
  | mov rd rs => exact .of_value (h.xval_fits rs)
  | xgcd rg rx ry ra rb => exact .xgcdRun hL (h.xval_fits ra) (h.xval_fits rb)
  | modinv rd ra rn => exact .modinvRun (h.xval_fits rn)
  | modpow rd rb re rm => exact .powRun (h.xval_fits rm) fun b e _ => modPow_fst b e
  | modpowct rd rb re rm => exact .powRun (h.xval_fits rm) fun b e m _ => modPowCt_fst b e m
  | mrtest rd rn imm8 => exact .mrtestRun hL _ _ _ _
  | modadd rd ra rb rm | modsub rd ra rb rm | modmul rd ra rb rm => exact .reduceRun (h.xval_fits rm)
  | modsqrt rd ra rp => exact .modsqrtRun (h.xval_fits rp)
  | curve ra rb rp =>
    simp only [bodyOf, curveRun]
    split
    · exact .of_raise
    · split
      · exact .of_raise
      · exact .of_writes (by simp)
  | oncurve rd rx ry =>
    refine .of_value ?_
    split
    · exact one_fits hL
    · exact zero_fits s.cfg
  | pload pd rx ry =>
    simp only [bodyOf, ploadRun]
    split
    · exact .of_writes (by simp)
    · exact .of_raise
  | pstore rdx rdy ps => exact .of_integers (by simpa using h.stored_fits ps)
  | padd | pdbl => exact .pointRun
  | smul | smulct => exact .of_check fun _ => .scalarRun
  | porder rd ps rmax => exact .porderRun (h.xval_fits rmax)

/-- Settles O15: the code of a command is one of `code_exec`, and E_OVERFLOW is among its own where a result may not fit. -/
theorem codesPerCommand : Obligations.CodesPerCommand := by
  intro i s t h ht
  rcases code_exec ht with e | ⟨e, hw⟩ | ⟨e, hn⟩ | e | ⟨e, w, hr, hfit⟩
  · exact .inr (.inl e)
  · exact .inr (.inr (.inl ⟨e, hw⟩))
  · exact .inr (.inr (.inr (e ▸ eNoCurve_mem_ownCodes_iff.2 hn)))
  · rw [e]
    rcases code_bodyOf i s with hc | hc
    · exact .inl hc
    · exact .inr (.inr (.inr hc))
  · rw [e]
    by_cases ho : .eOverflow ∈ ownCodes i
    · exact .inr (.inr (.inr ho))
    · exact absurd (h.bodyOf_fits ho w hr) hfit

end Sys2Proof.Machine
end

section
/-! PROOFS. The statements about the end of a pending word, legal or not (R45, R280 to R288, R331). -/

namespace Sys2Proof.Machine

/-! ### The engine's turn on a pending word -/

theorem step_pending {s : State} {c : Word} (hr : s.resetLine = false) (hp : s.pend = some c)
    (hi : s.env.inputs = []) : step s = runWord c s := by
  rw [step_no_input hi, engineTurn_pending hr hp]

/-- R14, R45: every end of a word clears BUSY and sets DONE. -/
theorem State.CommandEnds.ended {s t : State} (h : s.CommandEnds t) : t.EndedWith t.code := by
  cases h with
  | raise | fatal | integers | point | bind | clear => exact ⟨rfl, rfl, rfl⟩

/-- Settles O6: the engine's turn on any word is one of the ends of a command. -/
theorem pendingCommandCompletes : Obligations.PendingCommandCompletes := by
  intro s hb hr hi
  obtain ⟨c, hp⟩ := Option.isSome_iff_exists.1 hb
  obtain ⟨t, ht, he⟩ := runWord_commandEnds c s
  obtain ⟨hidle, hdone, -⟩ := he.ended
  exact ⟨t, (step_pending hr hp hi).trans ht, by rw [State.busy, hidle]; rfl, hdone⟩

/-! ### The fatal state and illegal words (R282, R284) -/

theorem State.illegalWord_fatal {s : State} (hf : s.fatal = true) :
    s.illegalWord = .next (s.raise (Run.raised .eFatal) .eFatal) := by
  rw [State.illegalWord, State.checked_fatal hf, State.conclude_raise rfl]

theorem State.illegalWord_notFatal {s : State} (hf : s.fatal = false) :
    s.illegalWord = .next (s.raise (Run.raised .eIllegal) .eIllegal) := by
  rw [State.illegalWord, State.checked_illegal hf, State.conclude_raise rfl]

/-- R282, for every word. -/
theorem runWord_raisesFatal {s : State} (hf : s.fatal = true) (c : Word) :
    ∃ t, runWord c s = .next t ∧ s.WroteNothing t .eFatal ∧ t.fatal = s.fatal := by
  cases hd : decode c with
  | ok i => rw [runWord_legal hd]; exact exec_raisesFatal hf i
  | error e =>
    rw [runWord_illegal hd, State.illegalWord_fatal hf]
    exact ⟨_, rfl, s.wroteNothing_raise _ _ rfl, rfl⟩

/-- Settles O11, by `runWord_raisesFatal`. -/
theorem fatalRefusesEveryWord : Obligations.FatalRefusesEveryWord := by
  intro s c hf hp hr hi
  rw [step_pending hr hp hi, ← hf]
  exact runWord_raisesFatal hf c

/-- R284: a word of no row is found by the decoder, a duplicate destination by the command's encoding check. -/
theorem runWord_raisesIllegal {s : State} (hf : s.fatal = false) {c : Word}
    (h : (∀ o ∈ Opcode.all, o.accepts c = false) ∨ ∃ i, decode c = .ok i ∧ i.wellFormed = false) :
    ∃ t, runWord c s = .next t ∧ s.WroteNothing t .eIllegal ∧ t.fatal = s.fatal := by
  rcases h with h | ⟨i, hd, hw⟩
  · obtain ⟨e, hd⟩ := (refusedWordsMatchNoRow c).2 h
    rw [runWord_illegal hd, State.illegalWord_notFatal hf]
    exact ⟨_, rfl, s.wroteNothing_raise _ _ rfl, rfl⟩
  · rw [runWord_legal hd]
    exact exec_refused (by rw [hw, State.checked_illegal hf])

/-- Settles O12, by `runWord_raisesIllegal`. -/
theorem illegalWordRaises : Obligations.IllegalWordRaises := by
  intro s c hf hp hr hi h
  rw [step_pending hr hp hi, ← hf]
  exact runWord_raisesIllegal hf h

/-! ### Ends other than OK (R280, R288) -/

/-- A command that does not end with OK ends with a raise of another code than DivisionByZero, or fatally. -/
theorem exec_notOk {i : Instr} {s t : State} (ht : exec i s = .next t) (h : t.code ≠ .ok) :
    (∃ r c, c ≠ .divisionByZero ∧ t = s.raise r c) ∨ ∃ r, t = s.raiseFatal r := by
  rw [exec_next] at ht
  cases ht
  have raised : ∀ c, c ≠ .divisionByZero →
      ∃ r k, k ≠ .divisionByZero ∧ s.conclude (Run.raised c) = s.raise r k :=
    fun c hc => ⟨_, c, hc, State.conclude_raise rfl⟩
  rcases s.checked_cases i.wellFormed (needsCurve i) (bodyOf i s) with
    ⟨-, e⟩ | ⟨-, -, e⟩ | ⟨-, -, -, -, e⟩ | ⟨-, -, -, e⟩ <;> rw [e] at h ⊢
  · exact .inl (raised _ nofun)
  · exact .inl (raised _ nofun)
  · exact .inl (raised _ nofun)
  · rcases s.conclude_cases (bodyOf i s) with ⟨w, -, -, e⟩ | ⟨w, -, -, e⟩ | ⟨c, hr, e⟩ | ⟨-, e⟩
    · rw [e] at h; exact absurd rfl h
    · exact .inl ⟨_, .eOverflow, nofun, e⟩
    · refine .inl ⟨_, c, ?_, e⟩
      rintro rfl
      cases hr.symm.trans (bodyOf_fatal_of_code (by rw [hr]; rfl)).1
    · exact .inr ⟨_, e⟩

theorem runWord_notOk {c : Word} {s t : State} (ht : runWord c s = .next t) (h : t.code ≠ .ok) :
    (∃ r c, c ≠ .divisionByZero ∧ t = s.raise r c) ∨ ∃ r, t = s.raiseFatal r := by
  cases hd : decode c with
  | ok i => rw [runWord_legal hd] at ht; exact exec_notOk ht h
  | error e =>
    rw [runWord_illegal hd] at ht
    cases hf : s.fatal with
    | true => cases (State.illegalWord_fatal hf).symm.trans ht; exact .inl ⟨_, .eFatal, nofun, rfl⟩
    | false => cases (State.illegalWord_notFatal hf).symm.trans ht; exact .inl ⟨_, .eIllegal, nofun, rfl⟩

/-- Settles O14: the two ends of `runWord_notOk` write STATUS only, and the issue before them STATUS and CMD. -/
theorem failedCommandWritesNothing : Obligations.FailedCommandWritesNothing := by
  intro s t w _ hr hi ht hcode
  have ht' : runWord w (s.issue w) = .next t := (step_pending (s := s.issue w) hr rfl hi).symm.trans ht
  rcases runWord_notOk ht' hcode with ⟨r, c, hc, rfl⟩ | ⟨r, rfl⟩
  · have hfatal : s.fatal = (s.fatal || c == .divisionByZero) := by simp [hc]
    exact ⟨⟨rfl, rfl, rfl⟩, rfl, rfl, rfl, rfl, rfl, rfl, rfl, rfl, rfl, rfl, hfatal⟩
  · have hfatal : true = (s.fatal || Code.divisionByZero == .divisionByZero) := by simp
    exact ⟨⟨rfl, rfl, rfl⟩, rfl, rfl, rfl, rfl, rfl, rfl, rfl, rfl, rfl, rfl, hfatal⟩

end Sys2Proof.Machine
end

section
/-! PROOFS. The statement about the fatal end of the five commands that form sums of points (R200, R290). -/

namespace Sys2Proof.Machine

/-- R200, R202: a double is missing exactly where its tangent's slope is undefined. -/
theorem pdbl_eq_none_iff {c : Curve} (hp : 0 < c.p) (P : Point) : pdbl c P = none ↔ SlopeUndefined c P P := by
  rw [← padd_self, padd_eq_none_iff hp]

/-- R290: a command whose own run ends fatally. -/
theorem exec_endsFatally {i : Instr} {s : State} {tr : List Event} (h : s.CurveReady) (hw : i.wellFormed = true)
    (hb : bodyOf i s = { ending := .fatalDivisionByZero, trace := tr }) : EndsFatally i s := by
  obtain ⟨-, hf, hc⟩ := h
  refine ⟨_, exec_reached hf hw fun _ => hc, ?_⟩
  rw [hb, State.conclude_fatal rfl]
  exact ⟨s.wroteNothing_raiseFatal _ rfl, rfl, rfl⟩

/-- R221, R222: a loop of SMUL or SMULCT that misses a sum. -/
theorem scalarRun_none (pd : PIdx) {r : Option Point × List Event} (h : r.1 = none) :
    scalarRun pd r = { ending := .fatalDivisionByZero, trace := r.2 } := by
  rw [scalarRun, h]

/-- Where a multiple has no value, the first that has none comes right after one that has, by a missing sum. -/
theorem exists_missing_sum_of_pointMultiple {c : Curve} {P : Point} {k : Nat} (h : pointMultiple c P k = none) :
    ∃ m Q, m + 2 ≤ k ∧ pointMultiple c P (m + 1) = some Q ∧ padd c Q P = none := by
  match k with
  | 0 => cases h
  | 1 => cases h
  | k + 2 =>
    cases hk : pointMultiple c P (k + 1) with
    | none =>
      obtain ⟨m, Q, hm, hQ, hS⟩ := exists_missing_sum_of_pointMultiple hk
      exact ⟨m, Q, by omega, hQ, hS⟩
    | some Q => exact ⟨k, Q, le_rfl, hk, by rwa [pointMultiple, hk] at h⟩

/-- R223, where a sum is missing before any multiple is `Inf`. -/
theorem porderRun_fatal (rd : XIdx) {c : Curve} {P : Point} {M : Int} {k : Nat} (hM : k ≤ M)
    (h : pointMultiple c P k = none) (hne : ∀ j, 1 ≤ j → j < k → pointMultiple c P j ≠ some .inf) :
    ∃ tr, porderRun rd c P M = { ending := .fatalDivisionByZero, trace := tr } := by
  obtain ⟨m, Q, hm, hQ, hS⟩ := exists_missing_sum_of_pointMultiple h
  have hQi : Q ≠ .inf := fun e => hne (m + 1) (by omega) (by omega) (e ▸ hQ)
  obtain ⟨n, hn⟩ : ∃ n, (M - 1).toNat = m + (n + 1) := ⟨(M - 1).toNat - (m + 1), by omega⟩
  have hstop : orderLoop c P (n + 1) Q (m + 1) = (none, []) := by simp [orderLoop, hQi, hS]
  rw [porderRun, if_neg (by omega), hn, orderLoop_advance _ hQ fun j h1 h2 => hne j h1 (by omega), hstop]
  exact ⟨_, rfl⟩

/-- Settles O17: each command's own run ends fatally where one of the sums it forms is missing. -/
theorem divisionByZeroIsFatal : Obligations.DivisionByZeroIsFatal := by
  intro s pd ps ps2 rk rd h
  have ⟨hi, _, hc⟩ := h
  have hp := hi.modulus_pos hc
  refine ⟨padd_eq_none_iff hp, pdbl_eq_none_iff hp, fun hs => ?_, fun hs => ?_, fun hk hacc => ?_, fun hk hacc => ?_,
    fun k hM hk hne => ?_⟩
  · have hS := (padd_eq_none_iff hp _ _).2 hs
    exact exec_endsFatally h rfl (by rw [bodyOf, hS]; rfl)
  · have hD := (pdbl_eq_none_iff hp _).2 hs
    exact exec_endsFatally h rfl (by rw [bodyOf, hD]; rfl)
  · have hloop := smulLoop_bitsUp_fst s.crv (s.point ps) (s.xval rk).toNat
    rw [hacc] at hloop
    exact exec_endsFatally h rfl ((if_neg hk.not_gt).trans (scalarRun_none pd hloop))
  · have hloop := smulctLoop_bitsDown_fst s.crv (s.point ps) (s.xval rk).toNat
    rw [hacc] at hloop
    exact exec_endsFatally h rfl ((if_neg hk.not_gt).trans (scalarRun_none pd hloop))
  · obtain ⟨tr, hb⟩ := porderRun_fatal rd hM hk hne
    exact exec_endsFatally h rfl hb

end Sys2Proof.Machine
end

section
/-! PROOFS. The statements about the reset input and about what clears FATAL (R290, R320, R322). -/

namespace Sys2Proof.Machine

/-! ### The reset input (R320) -/

theorem driveReset_release {s : State} (h : s.resetLine = true) : driveReset false s = s.toReset := by
  simp [driveReset, h]

/-- Settles O57: the release is `driveReset_release`, and an access under reset is the first case of its step. -/
theorem hardReset : Obligations.HardReset := by
  intro s rest hr
  have hr' : (s.popInput rest).resetLine = true := hr
  refine ⟨fun hi => ?_, fun off n ho hi => ?_, fun off l ho hi => ?_⟩
  · rw [step_input hi, applyInput, driveReset_release hr']
    rfl
  · have hw : (s.popInput rest).inWindow (s.cfg.base + off) := inWindow_offset s ho
    rw [step_input hi, applyInput]
    rcases busRead_cases (n := n) hw with ⟨-, e⟩ | ⟨h, -⟩ | ⟨h, -⟩
    · exact e
    · cases hr'.symm.trans h
    · cases hr'.symm.trans h
  · have hw : (s.popInput rest).inWindow (s.cfg.base + off) := inWindow_offset s ho
    rw [step_input hi, applyInput]
    rcases busWrite_cases (l := l) hw with ⟨-, e⟩ | ⟨h, -⟩ | ⟨h, -⟩
    · exact e
    · cases hr'.symm.trans h
    · cases hr'.symm.trans h

/-! ### FATAL under each kind of transition (R290) -/

/-- No end of a word clears FATAL. -/
theorem State.CommandEnds.fatal_of_fatal {s t : State} (h : s.CommandEnds t) (hf : s.fatal = true) : t.fatal = true := by
  cases h with
  | raise | point => exact hf
  | fatal => rfl
  | integers l r =>
    obtain ⟨x', e⟩ := State.foldl_setX_eq l s
    rw [e]; exact hf
  | bind _ _ _ _ h | clear _ _ h => cases hf.symm.trans h

theorem engineTurn_fatal {s t : State} (h : engineTurn s = .next t) (hf : s.fatal = true) : t.fatal = true := by
  unfold engineTurn at h
  split at h
  · cases h; exact hf
  · split at h
    · next c _ =>
      obtain ⟨u, hu, hc⟩ := runWord_commandEnds c s
      cases hu.symm.trans h
      exact hc.fatal_of_fatal hf
    · cases h; exact hf

theorem busRead_fatal {s t : State} {addr n : Nat} (h : busRead addr n s = .next t) : t.fatal = s.fatal := by
  by_cases hw : s.inWindow addr
  · rcases busRead_cases (n := n) hw with ⟨-, e⟩ | ⟨-, -, e⟩ | ⟨-, -, e⟩ <;> cases e.symm.trans h
    · rfl
    · rcases windowRead_state (addr - s.cfg.base) s with e | ⟨-, -, e⟩ <;> rw [e] <;> rfl
    · rfl
  · cases (busRead_outside hw).symm.trans h

/-- The only write to the window that changes FATAL is a write of SRST to CTRL that is not refused (R34). -/
theorem windowWrite_fatal (off : Nat) (v : Word) (s : State) :
    (windowWrite off v s).fatal = s.fatal ∨ (s.busy = false ∧ off = 0x10 ∧ v.getLsbD 1 = true) := by
  rcases windowWrite_cases off v s with e | ⟨-, e⟩ | ⟨-, e⟩ | ⟨-, -, e⟩ | ⟨hb, ho, e⟩ | ⟨-, -, e⟩ | ⟨-, -, e⟩ <;> rw [e]
  · exact .inl rfl
  · rw [writeStatus_eq]; exact .inl rfl
  · exact .inl rfl
  · exact .inl rfl
  · cases hv : v.getLsbD 1 with
    | false => rw [writeCtrl_ie hv]; exact .inl rfl
    | true => exact .inr ⟨hb, ho, rfl⟩
  · exact .inl rfl
  · unfold writeXlimb
    split <;> exact .inl rfl

theorem busWrite_fatal {s t : State} {addr : Nat} {l : List Byte} (h : busWrite addr l s = .next t) :
    t.fatal = s.fatal ∨
      (s.resetLine = false ∧ addr = s.cfg.base + 0x10 ∧ l.length = 4 ∧ s.busy = false ∧
        (wordOf l).getLsbD 1 = true) := by
  by_cases hw : s.inWindow addr
  · rcases busWrite_cases (l := l) hw with ⟨-, e⟩ | ⟨hr, ⟨hl, -⟩, e⟩ | ⟨-, -, e⟩ <;> cases e.symm.trans h
    · exact .inl rfl
    · rcases windowWrite_fatal (addr - s.cfg.base) (wordOf l) s with e | ⟨hb, ho, hv⟩
      · exact .inl e
      · exact .inr ⟨hr, by have := hw.1; omega, hl, hb, hv⟩
    · exact .inl rfl
  · cases (busWrite_outside hw).symm.trans h

theorem driveReset_fatal (b : Bool) (s : State) :
    (driveReset b s).fatal = s.fatal ∨ (b = false ∧ s.resetLine = true) := by
  unfold driveReset
  split
  · exact .inl rfl
  · split
    · next hb hr => exact .inr ⟨Bool.eq_false_iff.2 hb, hr⟩
    · exact .inl rfl

/-- Settles O18, by the kind of the transition. -/
theorem fatalClearedOnlyByReset : Obligations.FatalClearedOnlyByReset := by
  intro s t hf ht hc
  have changed : t.fatal ≠ s.fatal := by simp [hf, hc]
  cases hi : s.env.inputs with
  | nil =>
    rw [step_no_input hi] at ht
    cases hc.symm.trans (engineTurn_fatal ht hf)
  | cons i rest =>
    rw [step_input hi] at ht
    cases i with
    | read addr n => exact absurd (busRead_fatal ht) changed
    | write addr lanes =>
      rcases busWrite_fatal ht with e | ⟨hr, rfl, hl, hb, hv⟩
      · exact absurd e changed
      · exact .inl ⟨lanes, rest, ⟨hr, hi⟩, hl, hb, hv⟩
    | engine => cases hc.symm.trans (engineTurn_fatal ht hf)
    | resetLine b =>
      cases ht
      rcases driveReset_fatal b (s.popInput rest) with e | ⟨rfl, hr⟩
      · exact absurd e changed
      · exact .inr ⟨rest, hr, rfl⟩

end Sys2Proof.Machine
end
